-- ==== Sys2Proof/Word.lean ====
section
/-! DEFINITION. The cell and element types of the block (00_scope.md R6, R9; 10_state.md R24). -/

namespace Sys2Proof

/-- A sub-fingerprint: a cell of `WBUF` (R6 `WORD_W`, R24). -/
abbrev Word := BitVec 32

/-- A byte of a frame: a cell of `BBUF` (R24); also the algorithm id (R6 `ALGO_W`). -/
abbrev Byte := BitVec 8

/-- A 3-bit element: a span, a cell of `E3BUF`, and a command word (R6 `SPAN_W`, R93, R104). -/
abbrev Span := BitVec 3

/-- A 5-bit element: an extension, a cell of `E5BUF` (R6 `EXT_W`, R94). -/
abbrev Ext := BitVec 5

end Sys2Proof
end

