-- ==== Sys2Proof/Config.lean ====
section
/-! DEFINITION. The fixed numbers of the format, the parameters of an implementation, and the free values. -/

namespace Sys2Proof

/-- `ESC` (00_scope.md R6): the span that means "7 or more", and the amount taken off the distance. -/
abbrev esc : Nat := 7

/-- `HDR_BYTES` (R6): the length of the frame's header. -/
abbrev hdrBytes : Nat := 4

/-- `WORD_W` (R6): the number of positions of a delta. -/
abbrev wordW : Nat := 32

/-- One more than the greatest count, 2^24 (R6 `COUNT_W`). -/
abbrev countRange : Nat := 16777216

/-- The parameters a model takes as arguments (00_scope.md R7, R8). A capacity `none` is unbounded.
`wcap` is below 2^24, as R7 demands. -/
structure Config where
  /-- `WCAP`: cells of `WBUF`. -/
  wcap : Fin 16777216
  /-- `BCAP`: cells of `BBUF`. -/
  bcap : Option Nat
  /-- `E3CAP`: cells of `E3BUF`. -/
  e3cap : Option Nat
  /-- `E5CAP`: cells of `E5BUF`. -/
  e5cap : Option Nat
  /-- `COUNT_PRECHECK`: whether `DECODE` makes the header count check (R8, D10). -/
  countPrecheck : Bool
  deriving DecidableEq, Repr

/-- The configuration in which the block behaves exactly as the source: no capacity but the 24-bit one, the
count check made (R7, R8). DESIGN CHOICE, log 3. -/
def Config.unbounded : Config :=
  { wcap := 16777215, bcap := none, e3cap := none, e5cap := none, countPrecheck := true }

/-- FREE VALUE (log 4): what a cell of width `w` at `index` holds when a command left it unspecified
(10_state.md R25, U3, U4); `epoch` tells one command from another. It has no body: nothing can be proved of it. -/
opaque Config.freeCell : (w epoch index : Nat) → BitVec w

/-- FREE VALUE (log 4): what the register numbered `index` holds when a command left it unspecified (U3, U7), and what
a read of `CMD` returns (U6). It has no body. -/
opaque Config.freeReg : (epoch index : Nat) → Nat

end Sys2Proof
end

