-- ==== Sys2Proof/Machine/State.lean ====
section
/-! DEFINITION. The state of the block (10_state.md), its status codes, the host's actions, and why a step can stop. -/

namespace Sys2Proof.Machine

/-- The codes of the `STATUS` register (10_state.md R28): nine and no others (U15). -/
inductive Status where
  /-- 0: no command has ended since reset. -/
  | idle
  /-- 1: the command completed. -/
  | ok
  /-- 2: fewer than 4 bytes supplied. -/
  | inputTooShort
  /-- 3: the count exceeds the bytes available, or the spans ran out. -/
  | unexpectedEndOfData
  /-- 4: fewer extensions available than escapes need. -/
  | missingExtension
  /-- 5: the last span run had no terminator (never set, 60_exceptions.md R236). -/
  | incompleteStride
  /-- 6: a span run reaches beyond position 32. -/
  | unspecifiedBitOffset
  /-- 7: a length exceeds a buffer capacity. -/
  | refusedCapacity
  /-- 8: `CMD` was written with 0 or 7. -/
  | illegalCommand
  deriving DecidableEq, Repr

/-- The four buffers (10_state.md R24). -/
inductive BufId where
  | wbuf
  | bbuf
  | e3buf
  | e5buf
  deriving DecidableEq, Repr

/-- The eleven host registers (10_state.md R22), in the order of their numbers 0 to 10. -/
inductive Reg where
  | cmd
  | status
  | algo
  | count
  | wlen
  | blen
  | e3len
  | e5len
  | errExpected
  | errActual
  | cap
  deriving DecidableEq, Repr

/-- One action of the host between commands (00_scope.md R18; 10_state.md R23, R24; 70_reset_and_hazards.md R271; U17).
Log 2. -/
inductive HostAct where
  /-- `NAME <- v`; a write of `CMD` starts the command whose opcode is `v`. -/
  | writeReg (r : Reg) (v : Nat)
  /-- A read of a register. -/
  | readReg (r : Reg)
  /-- `BUF[i] <- v`. -/
  | writeCell (b : BufId) (i v : Nat)
  /-- A read of `BUF[i]`. -/
  | readCell (b : BufId) (i : Nat)
  /-- Hardware reset (R271). -/
  | reset
  deriving DecidableEq, Repr

/-- One buffer of cells of `w` bits (10_state.md R24). `cells` lists the cells known to hold a value, indices strictly
rising (for bytes it is a list of `Host.Cell`). `rest` says what every unlisted cell holds: `none`, nothing was written
since reset (R27); `some k`, the unspecified value left by the command of epoch `k` (R25, U3, U4). Logs 4 and 5. -/
structure Buf (w : Nat) where
  cells : List (Nat × BitVec w)
  rest : Option Nat
  deriving DecidableEq, Repr

/-- Working registers of the transform in `ENCODE` (10_state.md R30). Only the 32-bit values are bit vectors (D12). -/
structure EncRegs where
  /-- The previous sub-fingerprint. -/
  prev : Word
  /-- The sub-fingerprint xor the one before it. -/
  delta : Word
  /-- The position being examined, 1 to 32. -/
  pos : Nat
  /-- The position of the last set bit seen, 0 when none. -/
  last : Nat
  /-- The distance being emitted. -/
  dist : Nat
  /-- The index of the sub-fingerprint being encoded. -/
  wp : Nat
  /-- `S`: spans emitted so far. -/
  spanCount : Nat
  /-- `X`: extensions emitted so far. -/
  extCount : Nat
  deriving DecidableEq, Repr

/-- Working registers of the scan (10_state.md R31) and the replay (R32) of `DECODE`, with its cursors (R34). -/
structure DecRegs where
  /-- Terminators seen by the scan. -/
  tc : Nat
  /-- Escapes seen by the scan. -/
  sc : Nat
  /-- The span cursor, of the scan and again of the replay. -/
  sp : Nat
  /-- `Q`: spans unpacked from the whole remainder. -/
  unpackedSpans : Nat
  /-- `L`: the true length of the span stream. -/
  spanLength : Nat
  /-- `A`: extensions unpacked. -/
  available : Nat
  /-- The position of the last bit set in the value under construction, 0 when none. -/
  bo : Nat
  /-- The value under construction. -/
  fp : Word
  /-- The previous reconstructed value. -/
  fpPrev : Word
  /-- The extension cursor. -/
  xp : Nat
  /-- Sub-fingerprints written so far. -/
  wp : Nat
  deriving DecidableEq, Repr

/-- Working registers of the packers and unpackers (10_state.md R33). -/
structure PackRegs where
  /-- The bit cursor. -/
  bc : Nat
  /-- The element index. -/
  j : Nat
  deriving DecidableEq, Repr

/-- The whole machine (10_state.md R20): ten host registers (`CMD` stores nothing, R23), four buffers, the working
registers; then the model's own fields. -/
structure State where
  /-- `STATUS`. -/
  status : Status
  /-- `ALGO`. -/
  algo : Byte
  /-- `COUNT`. -/
  count : BitVec 24
  /-- `WLEN`. -/
  wlen : BitVec 24
  /-- `BLEN`. -/
  blen : Nat
  /-- `E3LEN`. -/
  e3len : Nat
  /-- `E5LEN`. -/
  e5len : Nat
  /-- `ERR_EXPECTED`. -/
  errExpected : Nat
  /-- `ERR_ACTUAL`. -/
  errActual : Nat
  /-- `CAP`. -/
  cap : Nat
  /-- `WBUF`. -/
  wbuf : Buf 32
  /-- `BBUF`. -/
  bbuf : Buf 8
  /-- `E3BUF`. -/
  e3buf : Buf 3
  /-- `E5BUF`. -/
  e5buf : Buf 5
  /-- Working registers of `ENCODE`. -/
  enc : EncRegs
  /-- Working registers of `DECODE`. -/
  dec : DecRegs
  /-- Working registers of the packers and unpackers. -/
  pack : PackRegs
  /-- MODEL's own: the parameters of the implementation; constant (log 3). -/
  cfg : Config
  /-- MODEL's own: a `DECODE` is inside its replay (log 8). -/
  replaying : Bool
  /-- MODEL's own: how many free values have been drawn (log 4). -/
  freeCount : Nat
  /-- MODEL's own: what the host's last read returned (log 2). -/
  readData : Option Nat
  /-- MODEL's own: the host's actions to come, oldest first (log 2). -/
  input : List HostAct
  deriving DecidableEq, Repr

/-- Faults: the model stops. The block goes on in none of these cases in a way the spec describes. -/
inductive Fault where
  /-- A command, a span code or a host read reaches a cell nothing has written since reset (10_state.md R27, U5). Safe. -/
  | unwrittenCell (b : BufId) (i : Nat)
  /-- A span code reaches a cell at or above the capacity (10_state.md R24); no replay of `DECODE` does (R162, R164). Safe. -/
  | noSuchCell (b : BufId) (i : Nat)
  deriving DecidableEq, Repr

/-- Refusals: the model rejects the action. -/
inductive Refusal where
  /-- An instruction that has no meaning yet; raised by `exec`'s arms only. Safe. -/
  | notModelled (mnemonic : String)
  /-- A host access to a cell index at or above the capacity (10_state.md R24, U12). Safe. -/
  | noSuchCell (b : BufId) (i : Nat)
  /-- A host write of a value the register's width cannot hold (10_state.md R22, U2). Safe. -/
  | registerValueTooWide (r : Reg) (v : Nat)
  /-- A host write of a value the cell's width cannot hold (10_state.md R24, U8). Safe. -/
  | cellValueTooWide (b : BufId) (v : Nat)
  /-- A host action while a command runs: there is no such transition (00_scope.md R18, U13). Safe. -/
  | commandRunning
  deriving DecidableEq, Repr

/-- An empty buffer: every cell unwritten (10_state.md R37, R27). -/
def Buf.unwritten (w : Nat) : Buf w :=
  { cells := [], rest := none }

/-- The encoder's starting values (40_span_encoder.md R131, R133). `delta`, `pos`, `dist` and `wp` are written before
they are read; 0 stands for them (log 7). -/
def EncRegs.start : EncRegs :=
  { prev := 0, delta := 0, pos := 0, last := 0, dist := 0, wp := 0, spanCount := 0, extCount := 0 }

/-- The decoder's starting values (41_span_decoder.md R155, R158). `unpackedSpans`, `spanLength` and `available` are
written before they are read; 0 stands for them (log 7). -/
def DecRegs.start : DecRegs :=
  { tc := 0, sc := 0, sp := 0, unpackedSpans := 0, spanLength := 0, available := 0, bo := 0, fp := 0, fpPrev := 0,
    xp := 0, wp := 0 }

/-- The packers' starting values (10_state.md R33). -/
def PackRegs.start : PackRegs :=
  { bc := 0, j := 0 }

/-- The block right after reset (10_state.md R37, 70_reset_and_hazards.md R271). The working registers are unspecified
there and the model's choice is 0 (log 7); the parameters are log 3's. -/
def State.reset : State :=
  { status := .idle, algo := 0, count := 0, wlen := 0, blen := 0, e3len := 0, e5len := 0,
    errExpected := 0, errActual := 0, cap := 0,
    wbuf := Buf.unwritten 32, bbuf := Buf.unwritten 8, e3buf := Buf.unwritten 3, e5buf := Buf.unwritten 5,
    enc := EncRegs.start, dec := DecRegs.start, pack := PackRegs.start,
    cfg := Config.unbounded, replaying := false, freeCount := 0, readData := none, input := [] }

end Sys2Proof.Machine
end

