-- ==== Sys2Proof/Machine/Flags.lean ====
section
/-! DEFINITION. The block has no flags (10_state.md R28): its one status is the `STATUS` code. The numbers of the codes,
and the ways a command can stop short of `OK` (60_exceptions.md R230). -/

namespace Sys2Proof.Machine

/-- The 4-bit code of a status (10_state.md R28). -/
def Status.code (st : Status) : Nat :=
  match st with
  | .idle => 0
  | .ok => 1
  | .inputTooShort => 2
  | .unexpectedEndOfData => 3
  | .missingExtension => 4
  | .incompleteStride => 5
  | .unspecifiedBitOffset => 6
  | .refusedCapacity => 7
  | .illegalCommand => 8

/-- The source's closed set of four decode errors (R230). -/
inductive DecodeError where
  /-- R231. -/
  | inputTooShort
  /-- R232. -/
  | unexpectedEndOfData
  /-- R233. -/
  | missingExtension (expected actual : Nat)
  /-- R234; never raised by a run of `DECODE` (R236), kept because the source lists it. -/
  | incompleteStride
  deriving DecidableEq, Repr

/-- How a running command stops short: one of the source's errors, or an outcome of this hardware; R230 asks that the two
groups be kept apart. -/
inductive Stop where
  | error (e : DecodeError)
  /-- R160, R235. -/
  | unspecifiedBitOffset
  /-- R238. -/
  | refusedCapacity
  deriving DecidableEq, Repr

/-- The status a stop leaves (R28). -/
def Stop.status (c : Stop) : Status :=
  match c with
  | .error .inputTooShort => .inputTooShort
  | .error .unexpectedEndOfData => .unexpectedEndOfData
  | .error (.missingExtension _ _) => .missingExtension
  | .error .incompleteStride => .incompleteStride
  | .unspecifiedBitOffset => .unspecifiedBitOffset
  | .refusedCapacity => .refusedCapacity

/-- The two operands of `MissingExtension` (R233); no other stop records a value (R231, R232, R234, R235, R238). -/
def Stop.operands (c : Stop) : Option (Nat × Nat) :=
  match c with
  | .error (.missingExtension expected actual) => some (expected, actual)
  | .error .inputTooShort => none
  | .error .unexpectedEndOfData => none
  | .error .incompleteStride => none
  | .unspecifiedBitOffset => none
  | .refusedCapacity => none

end Sys2Proof.Machine
end

