-- ==== Sys2Proof/Machine/Ops.lean ====
section
/-! DEFINITION. The named operations on buffers and registers, and the one way a command ends or stops. -/

namespace Sys2Proof.Machine

/-- `n` is greater than the capacity; nothing exceeds an unbounded one (00_scope.md R7). -/
def exceeds (n : Nat) (cap : Option Nat) : Bool :=
  match cap with
  | none => false
  | some c => decide (c < n)

/-- The capacity of each buffer (10_state.md R24). -/
def capacity (cfg : Config) (b : BufId) : Option Nat :=
  match b with
  | .wbuf => some cfg.wcap.val
  | .bbuf => cfg.bcap
  | .e3buf => cfg.e3cap
  | .e5buf => cfg.e5cap

/-- Cell `i` exists: its index is below the capacity (10_state.md R24). -/
def cellExists (cfg : Config) (b : BufId) (i : Nat) : Bool :=
  !exceeds (i + 1) (capacity cfg b)

/-- What an unlisted cell holds: nothing (10_state.md R27), or the free value a command left there (R25, U3, U4). -/
def Buf.unlisted {w : Nat} (b : Buf w) (i : Nat) : Option (BitVec w) :=
  match b.rest with
  | none => none
  | some k => some (Config.freeCell w k i)

/-- The listed value of cell `i`. -/
def lookupCell {w : Nat} : List (Nat × BitVec w) → Nat → Option (BitVec w)
  | [], _ => none
  | p :: ps, i => if p.1 = i then some p.2 else lookupCell ps i

/-- What cell `i` holds; `none` is an unwritten cell (10_state.md R27). A read has no side effect (20_memory.md R68). -/
def Buf.read {w : Nat} (b : Buf w) (i : Nat) : Option (BitVec w) :=
  match lookupCell b.cells i with
  | some v => some v
  | none => b.unlisted i

/-- Puts a cell into a list of rising indices. -/
def insertCell {w : Nat} (i : Nat) (v : BitVec w) : List (Nat × BitVec w) → List (Nat × BitVec w)
  | [] => [(i, v)]
  | p :: ps =>
    if p.1 < i then p :: insertCell i v ps
    else if p.1 = i then (i, v) :: ps
    else (i, v) :: p :: ps

/-- `BUF[i] <- v` (00_scope.md R15). -/
def Buf.write {w : Nat} (b : Buf w) (i : Nat) (v : BitVec w) : Buf w :=
  { b with cells := insertCell i v b.cells }

/-- Pairs each element with its index, the first with `i`. -/
def numberFrom {α : Type} : Nat → List α → List (Nat × α)
  | _, [] => []
  | i, x :: xs => (i, x) :: numberFrom (i + 1) xs

/-- An output buffer that holds the sequence `xs` from cell 0; the cells above are unspecified (10_state.md R25, U4). -/
def Buf.ofSeq {w : Nat} (k : Nat) (xs : List (BitVec w)) : Buf w :=
  { cells := numberFrom 0 xs, rest := some k }

/-- A buffer whose every cell is unspecified (U3). -/
def Buf.unspecified (w k : Nat) : Buf w :=
  { cells := [], rest := some k }

/-- Keeps the cells below `n`; the cells at or above it become unspecified (10_state.md R25, U4). -/
def Buf.truncate {w : Nat} (b : Buf w) (n k : Nat) : Buf w :=
  { cells := b.cells.filter (fun p => decide (p.1 < n)), rest := some k }

/-- `MemRead(BUF, i, n)` (00_scope.md R15): the cells `i` to `i + n - 1`, or the first of them that is unwritten. -/
def Buf.readFrom {w : Nat} (b : Buf w) (i : Nat) : Nat → Except Nat (List (BitVec w))
  | 0 => .ok []
  | n + 1 =>
    match b.read i with
    | none => .error i
    | some v =>
      match Buf.readFrom b (i + 1) n with
      | .ok vs => .ok (v :: vs)
      | .error j => .error j

/-- The canonical form of a buffer: listed indices strictly rise. An entry never repeats what an unlisted cell reads as:
an unlisted cell holds no known value (log 5). -/
abbrev Buf.wf {w : Nat} (b : Buf w) : Prop :=
  b.cells.Pairwise (fun p q => p.1 < q.1)

/-- A read of one cell by a span code (20_memory.md R60): the cell must exist (10_state.md R24) and hold a value (R27). -/
def engineRead {w : Nat} (cfg : Config) (id : BufId) (b : Buf w) (i : Nat) : Except Fault (BitVec w) :=
  if cellExists cfg id i then
    match b.read i with
    | some v => .ok v
    | none => .error (.unwrittenCell id i)
  else .error (.noSuchCell id i)

/-- The end of a running command (00_scope.md R16, 10_state.md R28): `STATUS` takes the code. The error registers are
unspecified from here on (10_state.md R23, U7, log 10); `MissingExtension` fills them after this. -/
def endCommand (st : Status) (s : State) : State :=
  { s with
    status := st
    errExpected := Config.freeReg s.freeCount 8
    errActual := Config.freeReg s.freeCount 9
    replaying := false
    freeCount := s.freeCount + 1 }

/-- RAISING AN ERROR, the block's exception entry (00_scope.md R16, 60_exceptions.md R244): it saves nothing and goes
nowhere; the running command stops, `STATUS` takes the code, and `MissingExtension` records its operands (R233). There is
no return from it (R246): the block is ready for the next command. -/
def raise (c : Stop) (s : State) : State :=
  { endCommand c.status s with
    errExpected := (c.operands.map Prod.fst).getD (Config.freeReg s.freeCount 8)
    errActual := (c.operands.map Prod.snd).getD (Config.freeReg s.freeCount 9) }

/-- A stop of `DECODE` (41_span_decoder.md R168): `WLEN <- 0`, `BBUF` and `BLEN` unchanged, every other output
unspecified (U3, log 4). -/
def stopDecode (c : Stop) (s : State) : State :=
  raise c
    { s with
      wlen := 0
      algo := BitVec.ofNat 8 (Config.freeReg s.freeCount 2)
      count := BitVec.ofNat 24 (Config.freeReg s.freeCount 3)
      e3len := Config.freeReg s.freeCount 6
      e5len := Config.freeReg s.freeCount 7
      wbuf := Buf.unspecified 32 s.freeCount
      e3buf := Buf.unspecified 3 s.freeCount
      e5buf := Buf.unspecified 5 s.freeCount }

/-- A refused `ENCODE` (40_span_encoder.md R143): the inputs unchanged, every output but `STATUS` unspecified. -/
def refuseEncode (s : State) : State :=
  raise .refusedCapacity
    { s with
      bbuf := Buf.unspecified 8 s.freeCount
      blen := Config.freeReg s.freeCount 5
      e3buf := Buf.unspecified 3 s.freeCount
      e3len := Config.freeReg s.freeCount 6
      e5buf := Buf.unspecified 5 s.freeCount
      e5len := Config.freeReg s.freeCount 7
      count := BitVec.ofNat 24 (Config.freeReg s.freeCount 3)
      cap := Config.freeReg s.freeCount 10 }

/-- A refused `PACK3` or `PACK5` (42_pack3.md R196, 43_pack5.md R217): `BBUF`, `BLEN` and `CAP` unspecified. -/
def refusePack (s : State) : State :=
  raise .refusedCapacity
    { s with
      bbuf := Buf.unspecified 8 s.freeCount
      blen := Config.freeReg s.freeCount 5
      cap := Config.freeReg s.freeCount 10 }

/-- A refused `UNPACK3` (42_pack3.md R197): `E3BUF` and `E3LEN` unspecified. -/
def refuseUnpack3 (s : State) : State :=
  raise .refusedCapacity
    { s with
      e3buf := Buf.unspecified 3 s.freeCount
      e3len := Config.freeReg s.freeCount 6 }

/-- A refused `UNPACK5` (43_pack5.md R218): `E5BUF` and `E5LEN` unspecified. -/
def refuseUnpack5 (s : State) : State :=
  raise .refusedCapacity
    { s with
      e5buf := Buf.unspecified 5 s.freeCount
      e5len := Config.freeReg s.freeCount 7 }

/-- A write of a reserved value to `CMD` (30_encoding.md R105, 60_exceptions.md R237): nothing but `STATUS` changes
(logs 9 and 10). -/
def illegalCommand (s : State) : State :=
  { s with status := .illegalCommand }

/-- Hardware reset (70_reset_and_hazards.md R271, 10_state.md R37). What is no state of the block stays: the parameters,
the host's further actions and last read, the count of free values (logs 2, 3, 4). -/
def resetBlock (s : State) : State :=
  { State.reset with cfg := s.cfg, freeCount := s.freeCount, readData := s.readData, input := s.input }

end Sys2Proof.Machine
end

