-- ==== Sys2Proof/Machine/Operands.lean ====
section
/-! DEFINITION. Operand assembly: the header of a frame (30_encoding.md R92, 20_memory.md R61) and the distance operand
of a span code (30_encoding.md R102). A command's other operands are sequences in buffers (10_state.md R25), read by
`Buf.readFrom`. -/

namespace Sys2Proof.Machine

/-- `be24(n)` (40_span_encoder.md R138, 20_memory.md R61): bits 23 to 16, 15 to 8, 7 to 0. -/
def be24 (n : BitVec 24) : List Byte :=
  [n.extractLsb' 16 8, n.extractLsb' 8 8, n.extractLsb' 0 8]

/-- The header of a frame (30_encoding.md R92). -/
def frameHeader (algo : Byte) (count : BitVec 24) : List Byte :=
  algo :: be24 count

/-- The algorithm id of a header: byte 0 (41_span_decoder.md R152). -/
def headerAlgo (header : List Byte) : Byte :=
  header.getD 0 0

/-- The count of a header: bytes 1 to 3, big-endian (41_span_decoder.md R152, 20_memory.md R61). -/
def headerCount (header : List Byte) : BitVec 24 :=
  (header.getD 1 0) ++ ((header.getD 2 0) ++ (header.getD 3 0))

/-- The distance of the escape (30_encoding.md R102): 7 plus the extension, 7 to 38. -/
def escapeDistance (e : Ext) : Nat :=
  esc + e.toNat

/-- The code of span `c` as a number (30_encoding.md R96). -/
def spanValue (c : Span) : Nat :=
  c.toNat

end Sys2Proof.Machine
end

