-- ==== Sys2Proof/Machine/Pack.lean ====
section
/-! DEFINITION. The packers and unpackers as functions (42_pack3.md R190 to R193, 43_pack5.md R210 to R214). A byte
sequence is the bit string of 00_scope.md R11, held as the number whose bit p is bit p of the string; the packers write
it and the unpackers read it with the bit cursor `bc` (10_state.md R33), which 30_encoding.md R95 makes the whole layout. -/

namespace Sys2Proof.Machine

/-- `packed_len(n, w)`: the bytes that hold n elements of w bits (30_encoding.md R95, 43_pack5.md R211). -/
def packedLen (w n : Nat) : Nat :=
  (w * n + 7) / 8

/-- `pack3_size(n)` (42_pack3.md R190). -/
def pack3Size (n : Nat) : Nat :=
  (3 * n + 7) / 8

/-- `pack5_size(n)` (43_pack5.md R210): the capacity reserved, not the bytes written. -/
def pack5Size (n : Nat) : Nat :=
  (n / 8 + 1) * 5

/-- `unpack_count(m, w)` (42_pack3.md R193, 43_pack5.md R214): the whole elements that m bytes hold. -/
def unpackCount (w m : Nat) : Nat :=
  (8 * m) / w

/-- Writes one element into the bit string at the bit cursor, its low bit first, and moves the cursors on. -/
def putElement {w : Nat} (st : PackRegs × Nat) (x : BitVec w) : PackRegs × Nat :=
  ({ bc := st.1.bc + w, j := st.1.j + 1 }, st.2 ||| (x.toNat <<< st.1.bc))

/-- The bit string of a sequence of elements, from cursor 0, with the cursors after the last one. -/
def packString {w : Nat} (xs : List (BitVec w)) : PackRegs × Nat :=
  xs.foldl putElement (PackRegs.start, 0)

/-- The first m bytes of a bit string (00_scope.md R11). -/
def stringBytes (m n : Nat) : List Byte :=
  (List.range m).map (fun i => BitVec.ofNat 8 (n >>> (8 * i)))

/-- The bit string of a sequence of bytes (00_scope.md R11). -/
def bytesString : List Byte → Nat
  | [] => 0
  | b :: bs => b.toNat + 256 * bytesString bs

/-- Packs a sequence into the minimum number of bytes, pad bits 0 (30_encoding.md R95). -/
def packElements {w : Nat} (xs : List (BitVec w)) : List Byte :=
  stringBytes (packedLen w xs.length) (packString xs).2

/-- Reads n elements from a bit string at the bit cursor, with the cursors after the last one. -/
def takeElements (w str : Nat) : Nat → PackRegs → List (BitVec w) × PackRegs
  | 0, r => ([], r)
  | n + 1, r =>
    let more := takeElements w str n { bc := r.bc + w, j := r.j + 1 }
    (BitVec.ofNat w (str >>> r.bc) :: more.1, more.2)

/-- Every whole element that the bytes hold, with the cursors at the end (42_pack3.md R193). -/
def unpackElements (w : Nat) (bs : List Byte) : List (BitVec w) × PackRegs :=
  takeElements w (bytesString bs) (unpackCount w bs.length) PackRegs.start

/-- `pack3(xs)` (42_pack3.md R191). -/
def pack3 (xs : List Span) : List Byte :=
  packElements xs

/-- `unpack3(bs)` (42_pack3.md R193). -/
def unpack3 (bs : List Byte) : List Span :=
  (unpackElements 3 bs).1

/-- `pack5(xs)` (43_pack5.md R212). -/
def pack5 (xs : List Ext) : List Byte :=
  packElements xs

/-- `unpack5(bs)` (43_pack5.md R214). -/
def unpack5 (bs : List Byte) : List Ext :=
  (unpackElements 5 bs).1

end Sys2Proof.Machine
end

