-- ==== Sys2Proof/Machine/SpanCodes.lean ====
section
/-! DEFINITION. The eight span codes (41_span_decoder.md R159 to R164, R171 to R176). The fetch of a code and the advance
of `sp` are the replay's (R161). -/

namespace Sys2Proof.Machine

/-- Sets the bit at position `bo` (R159; 00_scope.md R10). -/
def setPosition (fp : Word) (bo : Nat) : Word :=
  fp ||| (1#32 <<< (bo - 1))

/-- `advance(d)` (R159). Beyond position 32 the command ends `UnspecifiedBitOffset` and no value is computed (R160,
log 6). -/
def advance (d : Nat) (s : State) : State :=
  if wordW < s.dec.bo + d then
    stopDecode .unspecifiedBitOffset { s with dec := { s.dec with bo := s.dec.bo + d } }
  else
    { s with dec := { s.dec with bo := s.dec.bo + d, fp := setPosition s.dec.fp (s.dec.bo + d) } }

/-- `T` (R162): the value under construction is XORed with the previous one and written to `WBUF[wp]`. -/
def execT (s : State) : Host.Outcome State Fault Refusal :=
  if cellExists s.cfg .wbuf s.dec.wp then
    .next
      { s with
        wbuf := s.wbuf.write s.dec.wp (s.dec.fp ^^^ s.dec.fpPrev)
        dec := { s.dec with wp := s.dec.wp + 1, fpPrev := s.dec.fp ^^^ s.dec.fpPrev, fp := 0, bo := 0 } }
  else .fault (.noSuchCell .wbuf s.dec.wp)

/-- `D1` (R171). -/
def execD1 (s : State) : Host.Outcome State Fault Refusal :=
  .next (advance 1 s)

/-- `D2` (R172). -/
def execD2 (s : State) : Host.Outcome State Fault Refusal :=
  .next (advance 2 s)

/-- `D3` (R173). -/
def execD3 (s : State) : Host.Outcome State Fault Refusal :=
  .next (advance 3 s)

/-- `D4` (R174). -/
def execD4 (s : State) : Host.Outcome State Fault Refusal :=
  .next (advance 4 s)

/-- `D5` (R175). -/
def execD5 (s : State) : Host.Outcome State Fault Refusal :=
  .next (advance 5 s)

/-- `D6` (R176). -/
def execD6 (s : State) : Host.Outcome State Fault Refusal :=
  .next (advance 6 s)

/-- `X` (R164): pops the next extension `e` and advances by 7 + e (30_encoding.md R97, R102). -/
def execX (s : State) : Host.Outcome State Fault Refusal :=
  match engineRead s.cfg .e5buf s.e5buf s.dec.xp with
  | .ok e => .next (advance (escapeDistance e) { s with dec := { s.dec with xp := s.dec.xp + 1 } })
  | .error f => .fault f

end Sys2Proof.Machine
end

