-- ==== Sys2Proof/Machine/DecodeCommand.lean ====
section
/-! DEFINITION. The command `DECODE` (41_span_decoder.md R150 to R177), its tests in the order of 60_exceptions.md R241. -/

namespace Sys2Proof.Machine

/-- One look of the scan at a span (R155): terminators and escapes are counted, the cursor moves on. -/
def lookAt (r : DecRegs) (c : Span) : DecRegs :=
  { r with
    tc := if spanValue c = 0 then r.tc + 1 else r.tc
    sc := if spanValue c = esc then r.sc + 1 else r.sc
    sp := r.sp + 1 }

/-- Step 4, the scan (R155): looks at spans while fewer than `count` terminators have been seen. -/
def scan (count : Nat) : List Span → DecRegs → DecRegs
  | [], r => r
  | c :: cs, r => if r.tc < count then scan count cs (lookAt r c) else r

/-- Dispatch on a span code (R161). -/
def execSpanCode (c : Span) (s : State) : Host.Outcome State Fault Refusal :=
  match spanValue c with
  | 0 => execT s
  | 1 => execD1 s
  | 2 => execD2 s
  | 3 => execD3 s
  | 4 => execD4 s
  | 5 => execD5 s
  | 6 => execD6 s
  | _ => execX s

/-- The replay (R158): while `sp < L` and the command still runs, fetches the code at `E3BUF[sp]`, advances `sp` by 1 and
executes the code (R161). The first argument bounds the number of codes. -/
def replay : Nat → State → Host.Outcome State Fault Refusal
  | 0, s => .next s
  | n + 1, s =>
    if s.replaying ∧ s.dec.sp < s.dec.spanLength then
      match engineRead s.cfg .e3buf s.e3buf s.dec.sp with
      | .error f => .fault f
      | .ok c =>
        match execSpanCode c { s with dec := { s.dec with sp := s.dec.sp + 1 } } with
        | .next t => replay n t
        | .fault f => .fault f
        | .refused r => .refused r
    else .next s

/-- Steps 8 and 9 (R165 to R167), for a frame of id `a` and count `c`. -/
def finishDecode (a : Byte) (c : BitVec 24) (s : State) : State :=
  if s.dec.fp ≠ 0 then stopDecode (.error .incompleteStride) s
  else
    endCommand .ok
      { s with
        algo := a
        count := c
        wlen := c
        e3len := s.dec.spanLength
        e5len := s.dec.available
        wbuf := s.wbuf.truncate c.toNat s.freeCount
        e3buf := s.e3buf.truncate s.dec.spanLength s.freeCount }

/-- Step 7 (R158), then the end of the command unless a span code has ended it. -/
def runReplay (a : Byte) (c : BitVec 24) (s : State) : Host.Outcome State Fault Refusal :=
  match replay s.dec.spanLength
      { s with replaying := true, dec := { s.dec with bo := 0, fp := 0, fpPrev := 0, sp := 0, xp := 0, wp := 0 } } with
  | .next t => if t.replaying then .next (finishDecode a c t) else .next t
  | .fault f => .fault f
  | .refused r => .refused r

/-- Step 6 (R157) for the bytes after the span stream, then the capacity test of step 7 (R158). -/
def decodeExtensions (a : Byte) (c : BitVec 24) (tail : List Byte) (s : State) : Host.Outcome State Fault Refusal :=
  if exceeds (unpackCount 5 tail.length) s.cfg.e5cap then .next (stopDecode .refusedCapacity s)
  else if unpackCount 5 tail.length < s.dec.sc then
    .next (stopDecode (.error (.missingExtension s.dec.sc (unpackCount 5 tail.length))) s)
  else if exceeds c.toNat (capacity s.cfg .wbuf) then .next (stopDecode .refusedCapacity s)
  else
    runReplay a c
      { s with
        e5buf := Buf.ofSeq s.freeCount (unpack5 tail)
        pack := (unpackElements 5 tail).2
        dec := { s.dec with available := unpackCount 5 tail.length } }

/-- Steps 3 to 5 (R154 to R156) for the bytes after the header. -/
def decodeSpans (a : Byte) (c : BitVec 24) (body : List Byte) (s : State) : Host.Outcome State Fault Refusal :=
  let r := scan c.toNat (unpack3 body) DecRegs.start
  let t : State :=
    { s with
      e3buf := Buf.ofSeq s.freeCount (unpack3 body)
      pack := (unpackElements 3 body).2
      dec := { r with unpackedSpans := unpackCount 3 body.length, spanLength := r.sp } }
  if r.tc < c.toNat then .next (stopDecode (.error .unexpectedEndOfData) t)
  else decodeExtensions a c (body.drop (pack3Size r.sp)) t

/-- Step 2 (R152, R153) for a header, then the capacity test and the reads of step 3 (R154). -/
def decodeHeader (header : List Byte) (s : State) : Host.Outcome State Fault Refusal :=
  if s.cfg.countPrecheck = true ∧ s.blen - hdrBytes < (headerCount header).toNat then
    .next (stopDecode (.error .unexpectedEndOfData) s)
  else if exceeds (unpackCount 3 (s.blen - hdrBytes)) s.cfg.e3cap then .next (stopDecode .refusedCapacity s)
  else
    match s.bbuf.readFrom hdrBytes (s.blen - hdrBytes) with
    | .error i => .fault (.unwrittenCell .bbuf i)
    | .ok body => decodeSpans (headerAlgo header) (headerCount header) body s

/-- `DECODE` (R150, R177): the entry test (R25), step 1 (R151), then the header. -/
def execDecode (s : State) : Host.Outcome State Fault Refusal :=
  if exceeds s.blen s.cfg.bcap then .next (stopDecode .refusedCapacity s)
  else if s.blen < hdrBytes then .next (stopDecode (.error .inputTooShort) s)
  else
    match s.bbuf.readFrom 0 hdrBytes with
    | .error i => .fault (.unwrittenCell .bbuf i)
    | .ok header => decodeHeader header s

end Sys2Proof.Machine
end

