-- ==== Sys2Proof/Syntax.lean ====
section
/-! DEFINITION. The instructions: one constructor per row of spec/opcode_table.json (30_encoding.md R96, R104, R105).
No row has an operand field. -/

namespace Sys2Proof

/-- The eight span codes that `DECODE` executes and the eight command words of the `CMD` register. -/
inductive Instr where
  /-- `T`, terminator (R162). -/
  | t
  /-- `D1`, literal distance 1 (R171). -/
  | d1
  /-- `D2`, literal distance 2 (R172). -/
  | d2
  /-- `D3`, literal distance 3 (R173). -/
  | d3
  /-- `D4`, literal distance 4 (R174). -/
  | d4
  /-- `D5`, literal distance 5 (R175). -/
  | d5
  /-- `D6`, literal distance 6 (R176). -/
  | d6
  /-- `X`, escape (R164). -/
  | x
  /-- `ENCODE` (R130). -/
  | encode
  /-- `DECODE` (R150). -/
  | decode
  /-- `PACK3` (R196). -/
  | pack3
  /-- `UNPACK3` (R197). -/
  | unpack3
  /-- `PACK5` (R217). -/
  | pack5
  /-- `UNPACK5` (R218). -/
  | unpack5
  /-- The reserved command value 0 (R105). -/
  | reserved0
  /-- The reserved command value 7 (R105). -/
  | reserved7
  deriving DecidableEq, Repr

end Sys2Proof
end

