-- ==== Sys2Proof/WellFormed.lean ====
section
/-! DEFINITION. Which instruction may stand where: the two instruction formats of 30_encoding.md R93 and R104. -/

namespace Sys2Proof

/-- The two formats of a 3-bit instruction: an element of the span stream (R93) or a value written to `CMD` (R104). -/
inductive Format where
  /-- `SPAN3`: fetched by `DECODE` from `E3BUF`. -/
  | span3
  /-- `CMD`: written by the host. -/
  | cmd
  deriving DecidableEq, Repr

/-- The format of an instruction: the "format" column of the opcode table. -/
def Instr.format : Instr → Format
  | .t => .span3
  | .d1 => .span3
  | .d2 => .span3
  | .d3 => .span3
  | .d4 => .span3
  | .d5 => .span3
  | .d6 => .span3
  | .x => .span3
  | .encode => .cmd
  | .decode => .cmd
  | .pack3 => .cmd
  | .unpack3 => .cmd
  | .pack5 => .cmd
  | .unpack5 => .cmd
  | .reserved0 => .cmd
  | .reserved7 => .cmd

/-- An instruction is well-formed in a stream of format `f` when it is of that format: a command word is no span, a
span code no command. Instructions have no operands, so this is the one check. -/
def Instr.wellFormed (f : Format) (i : Instr) : Bool :=
  decide (i.format = f)

/-- A span program: a list of instructions that are all span codes (30_encoding.md R108). -/
def spanProgram (p : List Instr) : Bool :=
  p.all (Instr.wellFormed .span3)

end Sys2Proof
end

