-- ==== Sys2Proof/Decode.lean ====
section
/-! DEFINITION. Decoding and encoding of the two instruction formats (30_encoding.md R96, R104, R105) and the
pseudo-instruction `SET` (R109). -/

namespace Sys2Proof

/-- Why bytes are no instruction. -/
inductive DecodeRefusal where
  /-- There is no byte. -/
  | noBytes
  /-- The value `v` does not fit the 3 bits of an instruction (R93, R104). -/
  | tooWide (v : Nat)
  deriving DecidableEq, Repr

/-- The opcode map of span codes (R96): all eight values are defined. -/
def decodeSpan (c : Span) : Instr :=
  match c.toNat with
  | 0 => .t
  | 1 => .d1
  | 2 => .d2
  | 3 => .d3
  | 4 => .d4
  | 5 => .d5
  | 6 => .d6
  | _ => .x

/-- The opcode map of commands (R104); 0 and 7 are reserved (R105). -/
def decodeCommand (c : BitVec 3) : Instr :=
  match c.toNat with
  | 0 => .reserved0
  | 1 => .encode
  | 2 => .decode
  | 3 => .pack3
  | 4 => .unpack3
  | 5 => .pack5
  | 6 => .unpack5
  | _ => .reserved7

/-- The instruction a 3-bit word stands for in a stream of format `f`. The two maps share their words (log 1). -/
def decodeWord (f : Format) (c : BitVec 3) : Instr :=
  match f with
  | .span3 => decodeSpan c
  | .cmd => decodeCommand c

/-- Decodes a number: one that does not fit 3 bits is refused by name. -/
def decodeNat (f : Format) (v : Nat) : Except DecodeRefusal Instr :=
  if v < 8 then .ok (decodeWord f (BitVec.ofNat 3 v)) else .error (.tooWide v)

/-- Decodes the first of a list of bytes and returns the rest. -/
def decodeBytes (f : Format) : List Byte → Except DecodeRefusal (Instr × List Byte)
  | [] => .error .noBytes
  | b :: rest =>
    match decodeNat f b.toNat with
    | .ok i => .ok (i, rest)
    | .error e => .error e

/-- The 3-bit word of an instruction, from the "bits" columns of R96, R104 and R105. -/
def encode (i : Instr) : BitVec 3 :=
  match i with
  | .t => 0b000#3
  | .d1 => 0b001#3
  | .d2 => 0b010#3
  | .d3 => 0b011#3
  | .d4 => 0b100#3
  | .d5 => 0b101#3
  | .d6 => 0b110#3
  | .x => 0b111#3
  | .encode => 0b001#3
  | .decode => 0b010#3
  | .pack3 => 0b011#3
  | .unpack3 => 0b100#3
  | .pack5 => 0b101#3
  | .unpack5 => 0b110#3
  | .reserved0 => 0b000#3
  | .reserved7 => 0b111#3

/-- The code and operand of a distance (30_encoding.md R102): 1 to 6 is the code itself; 7 or more is the escape with
the surplus as its extension. -/
def setDistance (d : Nat) : Span × Option Ext :=
  if esc ≤ d then (BitVec.ofNat 3 esc, some (BitVec.ofNat 5 (d - esc))) else (BitVec.ofNat 3 d, none)

/-- The pseudo-instruction `SET d` (R109), defined for d from 1 to 38: the span code and the operand of an escape. -/
def expandSet (d : Nat) : Option (Instr × Option Ext) :=
  if 1 ≤ d ∧ d ≤ 38 then some (decodeSpan (setDistance d).1, (setDistance d).2) else none

/-- The byte an instruction word is handed over in: the table gives its low `nbits` bits, every bit above is 0. -/
def tableByte (nbits w : Nat) : Byte :=
  BitVec.ofNat 8 (w % 2 ^ nbits)

/-- The instruction the decoder reads from the word `w` of the opcode table. A bare word does not say which of the two
instruction spaces it is from; it is read as a value written to `CMD`, the one instruction word the step fetches (log 1). -/
def decodeTableWord (nbits w : Nat) : Option Instr :=
  match decodeBytes .cmd [tableByte nbits w] with
  | .ok (i, _) => some i
  | .error _ => none

end Sys2Proof
end

