-- ==== Sys2Proof/Machine/Transform.lean ====
section
/-! DEFINITION. The delta and span transform and the frame (40_span_encoder.md R131 to R140). -/

namespace Sys2Proof.Machine

/-- The transform under way: its working registers (10_state.md R30) and the two streams emitted so far. -/
structure Encoder where
  regs : EncRegs
  spans : List Span
  exts : List Ext
  deriving DecidableEq, Repr

/-- The start of the transform (R131). -/
def Encoder.start : Encoder :=
  { regs := EncRegs.start, spans := [], exts := [] }

/-- Emission of the code of one distance (R134, R135): a literal code, or the escape and its extension. -/
def emitDistance (dist : Nat) (e : Encoder) : Encoder :=
  match setDistance dist with
  | (code, none) =>
    { e with spans := e.spans ++ [code], regs := { e.regs with spanCount := e.regs.spanCount + 1 } }
  | (code, some x) =>
    { spans := e.spans ++ [code], exts := e.exts ++ [x],
      regs := { e.regs with spanCount := e.regs.spanCount + 1, extCount := e.regs.extCount + 1 } }

/-- Examines position `pos` of the delta (R133); position `pos` is bit `pos - 1` (00_scope.md R10). -/
def examine (e : Encoder) (pos : Nat) : Encoder :=
  if e.regs.delta.getLsbD (pos - 1) then
    emitDistance (pos - e.regs.last)
      { e with regs := { e.regs with pos := pos, dist := pos - e.regs.last, last := pos } }
  else { e with regs := { e.regs with pos := pos } }

/-- The positions of a delta from the least significant up (R133). -/
def positions : List Nat :=
  (List.range wordW).map (fun i => i + 1)

/-- Takes the delta of the next sub-fingerprint (R132) and starts its scan (R133). -/
def startDelta (e : Encoder) (s : Word) : Encoder :=
  { e with regs := { e.regs with delta := s ^^^ e.regs.prev, prev := s, last := 0 } }

/-- Emission of the terminator (R136), after which the next sub-fingerprint is taken. -/
def emitTerminator (e : Encoder) : Encoder :=
  { e with spans := e.spans ++ [0], regs := { e.regs with spanCount := e.regs.spanCount + 1, wp := e.regs.wp + 1 } }

/-- The span run of one sub-fingerprint (R132 to R136). -/
def encodeWord (e : Encoder) (s : Word) : Encoder :=
  emitTerminator (positions.foldl examine (startDelta e s))

/-- The transform of a whole sequence, with its working registers (R131 to R136). -/
def runTransform (ws : List Word) : Encoder :=
  ws.foldl encodeWord Encoder.start

/-- `transform(ws)` (R137): the span stream and the extension stream. -/
def transform (ws : List Word) : List Span × List Ext :=
  ((runTransform ws).spans, (runTransform ws).exts)

/-- The frame made of an id, a count and two streams (R138, R139). -/
def frameOf (algo : Byte) (count : BitVec 24) (spans : List Span) (exts : List Ext) : List Byte :=
  frameHeader algo count ++ (pack3 spans ++ pack5 exts)

/-- `compress(ws, a)` (R130), for at most 2^24 - 1 sub-fingerprints (R138). DESIGN CHOICE, log 17: a longer list has no
frame in the spec (U2, N6, D16); this function is total and puts the length modulo 2^24 into the header. No state of the
machine holds such a list. -/
def compress (ws : List Word) (algo : Byte) : List Byte :=
  frameOf algo (BitVec.ofNat 24 ws.length) (transform ws).1 (transform ws).2

/-- The reserved capacity of a frame of S spans and X extensions (R141). -/
def reservedSize (spans exts : Nat) : Nat :=
  hdrBytes + pack3Size spans + pack5Size exts

/-- The length of a frame of S spans and X extensions (R140). -/
def frameLength (spans exts : Nat) : Nat :=
  hdrBytes + packedLen 3 spans + packedLen 5 exts

end Sys2Proof.Machine
end

