-- ==== Sys2Proof/Machine/EncodeCommand.lean ====
section
/-! DEFINITION. The command `ENCODE` (40_span_encoder.md R130 to R146). -/

namespace Sys2Proof.Machine

/-- Writes the streams, the frame and the registers of a finished transform of `WLEN` words (R138 to R142). -/
def storeFrame (e : Encoder) (s : State) : State :=
  endCommand .ok
    { s with
      enc := e.regs
      pack := (packString e.exts).1
      e3buf := Buf.ofSeq s.freeCount e.spans
      e3len := e.regs.spanCount
      e5buf := Buf.ofSeq s.freeCount e.exts
      e5len := e.regs.extCount
      bbuf := Buf.ofSeq s.freeCount (frameOf s.algo s.wlen e.spans e.exts)
      blen := frameLength e.regs.spanCount e.regs.extCount
      count := s.wlen
      cap := reservedSize e.regs.spanCount e.regs.extCount }

/-- The capacity tests of a finished transform (R143), then the frame. A cursor passes `E3CAP` or `E5CAP` on the way
exactly when it ends above it; what a refusal leaves is the same (log 13). -/
def encodeFinish (e : Encoder) (s : State) : State :=
  if exceeds e.regs.spanCount s.cfg.e3cap || exceeds e.regs.extCount s.cfg.e5cap ||
      exceeds (reservedSize e.regs.spanCount e.regs.extCount) s.cfg.bcap then
    refuseEncode { s with enc := e.regs }
  else storeFrame e s

/-- `ENCODE` (R130, R146). -/
def execEncode (s : State) : Host.Outcome State Fault Refusal :=
  if exceeds s.wlen.toNat (capacity s.cfg .wbuf) then .next (refuseEncode s)
  else
    match s.wbuf.readFrom 0 s.wlen.toNat with
    | .error i => .fault (.unwrittenCell .wbuf i)
    | .ok ws => .next (encodeFinish (runTransform ws) s)

end Sys2Proof.Machine
end

