-- ==== Sys2Proof/Machine/PackCommands.lean ====
section
/-! DEFINITION. The commands `PACK3`, `UNPACK3` (42_pack3.md R196, R197), `PACK5`, `UNPACK5` (43_pack5.md R217, R218). -/

namespace Sys2Proof.Machine

/-- Writes packed bytes from `BBUF[0]` and ends `OK` (R196, R217): `regs` the cursors, `size` the reserve. -/
def storePacked (bytes : List Byte) (regs : PackRegs) (size : Nat) (s : State) : State :=
  endCommand .ok
    { s with
      bbuf := Buf.ofSeq s.freeCount bytes
      blen := bytes.length
      cap := size
      pack := regs }

/-- `PACK3` (R196). -/
def execPack3 (s : State) : Host.Outcome State Fault Refusal :=
  if exceeds s.e3len s.cfg.e3cap || exceeds (pack3Size s.e3len) s.cfg.bcap then .next (refusePack s)
  else
    match s.e3buf.readFrom 0 s.e3len with
    | .error i => .fault (.unwrittenCell .e3buf i)
    | .ok xs => .next (storePacked (pack3 xs) (packString xs).1 (pack3Size s.e3len) s)

/-- `PACK5` (R217). -/
def execPack5 (s : State) : Host.Outcome State Fault Refusal :=
  if exceeds s.e5len s.cfg.e5cap || exceeds (pack5Size s.e5len) s.cfg.bcap then .next (refusePack s)
  else
    match s.e5buf.readFrom 0 s.e5len with
    | .error i => .fault (.unwrittenCell .e5buf i)
    | .ok xs => .next (storePacked (pack5 xs) (packString xs).1 (pack5Size s.e5len) s)

/-- `UNPACK3` (R197). -/
def execUnpack3 (s : State) : Host.Outcome State Fault Refusal :=
  if exceeds s.blen s.cfg.bcap || exceeds (unpackCount 3 s.blen) s.cfg.e3cap then .next (refuseUnpack3 s)
  else
    match s.bbuf.readFrom 0 s.blen with
    | .error i => .fault (.unwrittenCell .bbuf i)
    | .ok bs =>
      .next (endCommand .ok
        { s with
          e3buf := Buf.ofSeq s.freeCount (unpack3 bs)
          e3len := unpackCount 3 s.blen
          pack := (unpackElements 3 bs).2 })

/-- `UNPACK5` (R218). -/
def execUnpack5 (s : State) : Host.Outcome State Fault Refusal :=
  if exceeds s.blen s.cfg.bcap || exceeds (unpackCount 5 s.blen) s.cfg.e5cap then .next (refuseUnpack5 s)
  else
    match s.bbuf.readFrom 0 s.blen with
    | .error i => .fault (.unwrittenCell .bbuf i)
    | .ok bs =>
      .next (endCommand .ok
        { s with
          e5buf := Buf.ofSeq s.freeCount (unpack5 bs)
          e5len := unpackCount 5 s.blen
          pack := (unpackElements 5 bs).2 })

end Sys2Proof.Machine
end

