-- ==== Sys2Proof/Machine/ReservedCommands.lean ====
section
/-! DEFINITION. The reserved command values 0 and 7 (30_encoding.md R105, 60_exceptions.md R237). -/

namespace Sys2Proof.Machine

/-- A write of 0 to `CMD` (R105). -/
def execReserved0 (s : State) : Host.Outcome State Fault Refusal :=
  .next (illegalCommand s)

/-- A write of 7 to `CMD` (R105). -/
def execReserved7 (s : State) : Host.Outcome State Fault Refusal :=
  .next (illegalCommand s)

end Sys2Proof.Machine
end

