-- ==== Sys2Proof/Machine/Dispatch.lean ====
section
/-! DEFINITION. The meaning of every instruction, one arm each. -/

namespace Sys2Proof.Machine

/-- Executes one instruction. -/
def exec (i : Instr) (s : State) : Host.Outcome State Fault Refusal :=
  match i with
  | .t => Sys2Proof.Machine.execT s
  | .d1 => Sys2Proof.Machine.execD1 s
  | .d2 => Sys2Proof.Machine.execD2 s
  | .d3 => Sys2Proof.Machine.execD3 s
  | .d4 => Sys2Proof.Machine.execD4 s
  | .d5 => Sys2Proof.Machine.execD5 s
  | .d6 => Sys2Proof.Machine.execD6 s
  | .x => Sys2Proof.Machine.execX s
  | .encode => Sys2Proof.Machine.execEncode s
  | .decode => Sys2Proof.Machine.execDecode s
  | .pack3 => Sys2Proof.Machine.execPack3 s
  | .unpack3 => Sys2Proof.Machine.execUnpack3 s
  | .pack5 => Sys2Proof.Machine.execPack5 s
  | .unpack5 => Sys2Proof.Machine.execUnpack5 s
  | .reserved0 => Sys2Proof.Machine.execReserved0 s
  | .reserved7 => Sys2Proof.Machine.execReserved7 s

end Sys2Proof.Machine
end

