-- ==== Sys2Proof/Machine/HostAccess.lean ====
section
/-! DEFINITION. The host's accesses between commands (10_state.md R22 to R24, R27; 70_reset_and_hazards.md R271) and the
fetch of a command from a write of `CMD` (30_encoding.md R104). -/

namespace Sys2Proof.Machine

/-- The number of a register (10_state.md R22): an index, not an address. -/
def Reg.index (r : Reg) : Nat :=
  match r with
  | .cmd => 0
  | .status => 1
  | .algo => 2
  | .count => 3
  | .wlen => 4
  | .blen => 5
  | .e3len => 6
  | .e5len => 7
  | .errExpected => 8
  | .errActual => 9
  | .cap => 10

/-- What a host read of a register returns (10_state.md R22, R28). `CMD` stores nothing: the value is free (R23, U6). -/
def registerValue (r : Reg) (s : State) : Nat :=
  match r with
  | .cmd => (BitVec.ofNat 3 (Config.freeReg s.freeCount 0)).toNat
  | .status => s.status.code
  | .algo => s.algo.toNat
  | .count => s.count.toNat
  | .wlen => s.wlen.toNat
  | .blen => s.blen
  | .e3len => s.e3len
  | .e5len => s.e5len
  | .errExpected => s.errExpected
  | .errActual => s.errActual
  | .cap => s.cap

/-- A host read of a register. It changes no state of the block; a read of `CMD` draws a free value (log 12). -/
def readRegister (r : Reg) (s : State) : State :=
  { s with
    readData := some (registerValue r s)
    freeCount := if r = .cmd then s.freeCount + 1 else s.freeCount }

/-- A host write of a register other than the start of a command (10_state.md R22, R23): a read-only register ignores it,
a value that the width cannot hold is refused (U2), a `LENW` register holds any number (U16). `CMD` stores nothing. -/
def writeRegister (r : Reg) (v : Nat) (s : State) : Host.Outcome State Fault Refusal :=
  match r with
  | .cmd => .next s
  | .status => .next s
  | .algo => if v < 256 then .next { s with algo := BitVec.ofNat 8 v } else .refused (.registerValueTooWide .algo v)
  | .count => .next s
  | .wlen => if v < countRange then .next { s with wlen := BitVec.ofNat 24 v } else .refused (.registerValueTooWide .wlen v)
  | .blen => .next { s with blen := v }
  | .e3len => .next { s with e3len := v }
  | .e5len => .next { s with e5len := v }
  | .errExpected => .next s
  | .errActual => .next s
  | .cap => .next s

/-- The width of a buffer's cells (10_state.md R24). -/
def cellWidth (b : BufId) : Nat :=
  match b with
  | .wbuf => 32
  | .bbuf => 8
  | .e3buf => 3
  | .e5buf => 5

/-- What a cell holds, as a number. -/
def cellValue (b : BufId) (i : Nat) (s : State) : Option Nat :=
  match b with
  | .wbuf => (s.wbuf.read i).map BitVec.toNat
  | .bbuf => (s.bbuf.read i).map BitVec.toNat
  | .e3buf => (s.e3buf.read i).map BitVec.toNat
  | .e5buf => (s.e5buf.read i).map BitVec.toNat

/-- A host read of a cell: refused where there is no cell (10_state.md R24, U12), a fault where nothing was written (R27,
U5). -/
def readCell (b : BufId) (i : Nat) (s : State) : Host.Outcome State Fault Refusal :=
  if cellExists s.cfg b i then
    match cellValue b i s with
    | some v => .next { s with readData := some v }
    | none => .fault (.unwrittenCell b i)
  else .refused (.noSuchCell b i)

/-- Puts a value into a cell. -/
def putCell (b : BufId) (i v : Nat) (s : State) : State :=
  match b with
  | .wbuf => { s with wbuf := s.wbuf.write i (BitVec.ofNat 32 v) }
  | .bbuf => { s with bbuf := s.bbuf.write i (BitVec.ofNat 8 v) }
  | .e3buf => { s with e3buf := s.e3buf.write i (BitVec.ofNat 3 v) }
  | .e5buf => { s with e5buf := s.e5buf.write i (BitVec.ofNat 5 v) }

/-- A host write of a cell (10_state.md R24): refused where there is no cell (U12) or the value is too wide (U8). -/
def writeCell (b : BufId) (i v : Nat) (s : State) : Host.Outcome State Fault Refusal :=
  if cellExists s.cfg b i then
    if v < 2 ^ cellWidth b then .next (putCell b i v s) else .refused (.cellValueTooWide b v)
  else .refused (.noSuchCell b i)

/-- One access of the host other than the start of a command. -/
def hostAccess (act : HostAct) (s : State) : Host.Outcome State Fault Refusal :=
  match act with
  | .writeReg r v => writeRegister r v s
  | .readReg r => .next (readRegister r s)
  | .writeCell b i v => writeCell b i v s
  | .readCell b i => readCell b i s
  | .reset => .next (resetBlock s)

/-- What the next step has to do. -/
inductive Fetched where
  /-- No action of the host is left: the block does nothing (60_exceptions.md R255). -/
  | idle
  /-- A write of `CMD`: the instruction, and the state without the action. -/
  | instruction (i : Instr) (s : State)
  /-- Another action of the host, and the state without it. -/
  | access (act : HostAct) (s : State)
  /-- A value written to `CMD` that is no 3-bit word. -/
  | rejected (r : Refusal)
  deriving DecidableEq, Repr

/-- Takes the host's oldest action; a write of `CMD` is decoded as a command word (30_encoding.md R104, log 2). -/
def fetch (s : State) : Fetched :=
  match s.input with
  | [] => .idle
  | .writeReg .cmd v :: rest =>
    match decodeNat .cmd v with
    | .ok i => .instruction i { s with input := rest }
    | .error _ => .rejected (.registerValueTooWide .cmd v)
  | act :: rest => .access act { s with input := rest }

end Sys2Proof.Machine
end

