-- ==== Sys2Proof/Machine/Step.lean ====
section
/-! DEFINITION. One step of the block: one action of the host (00_scope.md R18; 70_reset_and_hazards.md R283: a command is
one transition). -/

namespace Sys2Proof.Machine

/-- Takes the host's oldest action and carries it out, whole. With none left the block does nothing (R255); while a
command runs there is no transition (U13, log 8). -/
def step (s : State) : Host.Outcome State Fault Refusal :=
  if s.replaying then .refused .commandRunning
  else
    match fetch s with
    | .idle => .next s
    | .instruction i t => exec i t
    | .access act t => hostAccess act t
    | .rejected r => .refused r

/-- The state in which the host's next action writes the word of the opcode table to `CMD` (log 15). -/
def State.withFetchWord (s : State) (nbits w : Nat) : State :=
  { s with replaying := false, input := .writeReg .cmd (tableByte nbits w).toNat :: s.input }

end Sys2Proof.Machine
end

