-- ==== Sys2Proof/Safety.lean ====
section
/-! DEFINITION. What a safe state is, and the terms the statements use: the pure decoder `decompress` of
41_span_decoder.md R150, written on sequences and independent of the machine's replay, and the frames of the commands. -/

namespace Sys2Proof.Machine

/-- The buffer holds the sequence `xs` from cell 0 (10_state.md R25). -/
def Buf.Holds {w : Nat} (b : Buf w) (xs : List (BitVec w)) : Prop :=
  ∀ (i : Nat) (h : i < xs.length), b.read i = some xs[i]

/-- Every listed cell exists (10_state.md R24). -/
def Buf.Within {w : Nat} (b : Buf w) (cap : Option Nat) : Prop :=
  ∀ p ∈ b.cells, exceeds (p.1 + 1) cap = false

/-- The unspecified cells are those of a command that has ended (log 4). -/
def Buf.MarkBelow {w : Nat} (b : Buf w) (n : Nat) : Prop :=
  ∀ k, b.rest = some k → k < n

/-- One buffer of a safe state: canonical, within its capacity, marked by the past only. -/
structure Buf.Safe {w : Nat} (b : Buf w) (cap : Option Nat) (n : Nat) : Prop where
  canonical : b.wf
  within : b.Within cap
  markBelow : b.MarkBelow n

/-- A safe state: no command runs between steps (00_scope.md R18), and every buffer is safe. -/
structure State.Inv (s : State) : Prop where
  noCommandRuns : s.replaying = false
  wbuf : s.wbuf.Safe (capacity s.cfg .wbuf) s.freeCount
  bbuf : s.bbuf.Safe (capacity s.cfg .bbuf) s.freeCount
  e3buf : s.e3buf.Safe (capacity s.cfg .e3buf) s.freeCount
  e5buf : s.e5buf.Safe (capacity s.cfg .e5buf) s.freeCount

/-- What the pure decoder answers: `Ok(algorithm_id, sequence)` with the streams it read, or how it stopped (R150). -/
inductive DecodeResult where
  | ok (algo : Byte) (ws : List Word) (spans : List Span) (exts : List Ext)
  | stopped (c : Stop)
  deriving DecidableEq, Repr

/-- The spans up to and including the c-th terminator (41_span_decoder.md R155, R156), if there are that many. -/
def takeRuns : Nat → List Span → Option (List Span)
  | 0, _ => some []
  | _ + 1, [] => none
  | c + 1, x :: xs => (takeRuns (if x = 0 then c else c + 1) xs).map (fun ys => x :: ys)

/-- The replay on sequences (R158 to R164): `bo`, `fp` and `prev` are R32's. An escape without an extension does not occur
where R157 has counted them. -/
def replaySpans : List Span → List Ext → Nat → Word → Word → Except Stop (List Word)
  | [], _, _, fp, _ => if fp = 0 then .ok [] else .error (.error .incompleteStride)
  | c :: cs, es, bo, fp, prev =>
    if c = 0 then
      match replaySpans cs es 0 0 (fp ^^^ prev) with
      | .ok ws => .ok ((fp ^^^ prev) :: ws)
      | .error e => .error e
    else if c = 7 then
      match es with
      | [] => .error (.error (.missingExtension 1 0))
      | e :: rest =>
        if bo + (7 + e.toNat) ≤ 32 then
          replaySpans cs rest (bo + (7 + e.toNat)) (fp ||| 1#32 <<< (bo + (7 + e.toNat) - 1)) prev
        else .error .unspecifiedBitOffset
    else if bo + c.toNat ≤ 32 then replaySpans cs es (bo + c.toNat) (fp ||| 1#32 <<< (bo + c.toNat - 1)) prev
    else .error .unspecifiedBitOffset

/-- `decompress` (R150) under the parameters `cfg`, its tests in the order of 60_exceptions.md R241. -/
def decompress (cfg : Config) (bs : List Byte) : DecodeResult :=
  if exceeds bs.length cfg.bcap then .stopped .refusedCapacity
  else if bs.length < 4 then .stopped (.error .inputTooShort)
  else if cfg.countPrecheck = true ∧ bs.length - 4 < (headerCount (bs.take 4)).toNat then
    .stopped (.error .unexpectedEndOfData)
  else if exceeds (unpackCount 3 (bs.length - 4)) cfg.e3cap then .stopped .refusedCapacity
  else
    match takeRuns (headerCount (bs.take 4)).toNat (unpack3 (bs.drop 4)) with
    | none => .stopped (.error .unexpectedEndOfData)
    | some spans =>
      let exts := unpack5 ((bs.drop 4).drop (pack3Size spans.length))
      if exceeds exts.length cfg.e5cap then .stopped .refusedCapacity
      else if exts.length < spans.count 7 then
        .stopped (.error (.missingExtension (spans.count 7) exts.length))
      else if exceeds (headerCount (bs.take 4)).toNat (some cfg.wcap.val) then .stopped .refusedCapacity
      else
        match replaySpans spans exts 0 0 0 with
        | .ok ws => .ok (headerAlgo (bs.take 4)) ws spans exts
        | .error c => .stopped c

/-- `decompress` answers `Ok(a, ws)`. -/
def Decodes (cfg : Config) (bs : List Byte) (a : Byte) (ws : List Word) : Prop :=
  ∃ spans exts, decompress cfg bs = .ok a ws spans exts

/-- The deltas of a sequence: each value xor the one before it, the first xor `prev` (40_span_encoder.md R132). -/
def deltasFrom : Word → List Word → List Word
  | _, [] => []
  | prev, w :: ws => (w ^^^ prev) :: deltasFrom w ws

/-- The number of set bits of a delta. -/
def setBits (d : Word) : Nat :=
  (positions.filter (fun p => d.getLsbD (p - 1))).length

/-- The total number of set bits over all the deltas of a sequence (40_span_encoder.md R137). -/
def totalSetBits (ws : List Word) : Nat :=
  ((deltasFrom 0 ws).map setBits).sum

/-- The state with its working registers at their starting values: what no rule reads across commands (10_state.md R21). -/
def State.clearWork (s : State) : State :=
  { s with enc := EncRegs.start, dec := DecRegs.start, pack := PackRegs.start }

/-- An outcome with the working registers of its next state cleared. -/
def clearOutcome : Host.Outcome State Fault Refusal → Host.Outcome State Fault Refusal
  | .next t => .next t.clearWork
  | .fault f => .fault f
  | .refused r => .refused r

/-- The frame of `ENCODE` (10_state.md R26; 40_span_encoder.md R142): everything but its outputs, the error registers (U7),
the working registers and the model's count of free values is as before. -/
def EncodeFrame (s t : State) : Prop :=
  t = { s with
    status := t.status, e3buf := t.e3buf, e3len := t.e3len, e5buf := t.e5buf, e5len := t.e5len, bbuf := t.bbuf
    blen := t.blen, count := t.count, cap := t.cap, errExpected := t.errExpected, errActual := t.errActual
    enc := t.enc, pack := t.pack, freeCount := t.freeCount, replaying := false }

/-- The frame of `DECODE` (10_state.md R26; 41_span_decoder.md R166, R168): in particular `BBUF`, `BLEN` and `CAP` are as
before. -/
def DecodeFrame (s t : State) : Prop :=
  t = { s with
    status := t.status, algo := t.algo, count := t.count, e3buf := t.e3buf, e3len := t.e3len, e5buf := t.e5buf
    e5len := t.e5len, wbuf := t.wbuf, wlen := t.wlen, errExpected := t.errExpected, errActual := t.errActual
    dec := t.dec, pack := t.pack, freeCount := t.freeCount, replaying := false }

/-- The frame of `PACK3` and `PACK5` (10_state.md R26). -/
def PackFrame (s t : State) : Prop :=
  t = { s with
    status := t.status, bbuf := t.bbuf, blen := t.blen, cap := t.cap, errExpected := t.errExpected
    errActual := t.errActual, pack := t.pack, freeCount := t.freeCount, replaying := false }

/-- The frame of `UNPACK3` (10_state.md R26). -/
def Unpack3Frame (s t : State) : Prop :=
  t = { s with
    status := t.status, e3buf := t.e3buf, e3len := t.e3len, errExpected := t.errExpected, errActual := t.errActual
    pack := t.pack, freeCount := t.freeCount, replaying := false }

/-- The frame of `UNPACK5` (10_state.md R26). -/
def Unpack5Frame (s t : State) : Prop :=
  t = { s with
    status := t.status, e5buf := t.e5buf, e5len := t.e5len, errExpected := t.errExpected, errActual := t.errActual
    pack := t.pack, freeCount := t.freeCount, replaying := false }

/-- `t` is a state that a `DECODE` stopped by `c` leaves (41_span_decoder.md R168): the code, `WLEN` 0, the operands of
`MissingExtension`; the rest of the outputs is unspecified, so nothing is said of it. -/
def StoppedDecode (c : Stop) (s t : State) : Prop :=
  t.status = c.status ∧ t.wlen = 0 ∧ DecodeFrame s t ∧
    ∀ expected actual, c.operands = some (expected, actual) → t.errExpected = expected ∧ t.errActual = actual

end Sys2Proof.Machine
end

