-- ==== Sys2Proof/Certificates/Slice0/Obligations.lean ====
section
/-! DEFINITION. The statements for the provers. Each docstring names the rules of spec/ it formalises. -/

open Sys2Proof Sys2Proof.Machine

/-! Reset, the host's accesses, and the step. -/

/-- 10_state.md R37, 70_reset_and_hazards.md R271: the state after reset, and what the host's reset action leaves. That the
action keeps the parameters and the host's further actions is the model's (logs 2, 3). -/
def Obligations.ResetLeavesRegistersZeroAndCellsUnwritten : Prop :=
  ∀ t : State,
    (t = State.reset ∨
      ∃ (s : State) (rest : List HostAct), s.replaying = false ∧ s.input = .reset :: rest ∧ step s = .next t) →
    t.status = .idle ∧ t.status.code = 0 ∧ t.algo = 0 ∧ t.count = 0 ∧ t.wlen = 0 ∧ t.blen = 0 ∧ t.e3len = 0 ∧
      t.e5len = 0 ∧ t.errExpected = 0 ∧ t.errActual = 0 ∧ t.cap = 0 ∧
      ∀ i, t.wbuf.read i = none ∧ t.bbuf.read i = none ∧ t.e3buf.read i = none ∧ t.e5buf.read i = none

/-- 70_reset_and_hazards.md R271: a reset can be applied between any two commands; it completes. -/
def Obligations.ResetActionCompletes : Prop :=
  ∀ (s : State) (rest : List HostAct), s.replaying = false → s.input = .reset :: rest →
    ∃ t, step s = .next t ∧ t.cfg = s.cfg ∧ t.input = rest ∧ t.replaying = false

/-- 60_exceptions.md R255: between commands the block holds its registers and buffers and does nothing. That a step with no
host action left is such a moment is the model's form (log 2). -/
def Obligations.BlockWithoutHostActionStaysAsItIs : Prop :=
  ∀ s : State, s.replaying = false → s.input = [] → step s = .next s

/-- 30_encoding.md R104: a step at a write of `CMD` runs the instruction the value decodes to, on the state without that
action; a value that is no 3-bit word starts nothing (log 11). -/
def Obligations.StepRunsTheCommandWritten : Prop :=
  ∀ (s : State) (v : Nat) (rest : List HostAct), s.replaying = false → s.input = .writeReg .cmd v :: rest →
    (∀ i, decodeNat .cmd v = .ok i → i.wellFormed .cmd = true ∧ step s = exec i { s with input := rest }) ∧
    (v < 8 → ∃ i, decodeNat .cmd v = .ok i) ∧
    (8 ≤ v → step s = .refused (.registerValueTooWide .cmd v))

/-- 41_span_decoder.md R158, R161: one turn of the replay fetches the code at `E3BUF[sp]`, advances `sp` by 1 and runs the
instruction the code decodes to; at `sp = L` the replay has ended. -/
def Obligations.ReplayFetchesAndRunsTheDecodedSpanCode : Prop :=
  ∀ (n : Nat) (s : State), s.replaying = true →
    (∀ c, s.dec.sp < s.dec.spanLength → engineRead s.cfg .e3buf s.e3buf s.dec.sp = .ok c →
      (decodeSpan c).wellFormed .span3 = true ∧
      replay (n + 1) s =
        match exec (decodeSpan c) { s with dec := { s.dec with sp := s.dec.sp + 1 } } with
        | .next t => replay n t
        | .fault f => .fault f
        | .refused r => .refused r) ∧
    (s.dec.spanLength ≤ s.dec.sp → replay n s = .next s)

/-- 10_state.md R23: a host write to a read-only register is ignored. -/
def Obligations.ReadOnlyRegistersIgnoreWrites : Prop :=
  ∀ (s : State) (r : Reg) (v : Nat) (rest : List HostAct),
    s.replaying = false → s.input = .writeReg r v :: rest →
    r = .status ∨ r = .count ∨ r = .errExpected ∨ r = .errActual ∨ r = .cap →
    step s = .next { s with input := rest }

/-- 10_state.md R22, R23: a host write to a writable register stores the value and changes no other register and no cell; a
value the width cannot hold is refused (U2, log 11). -/
def Obligations.WrittenRegistersReadBack : Prop :=
  ∀ (s : State) (r : Reg) (v : Nat) (rest : List HostAct),
    s.replaying = false → s.input = .writeReg r v :: rest →
    r = .algo ∨ r = .wlen ∨ r = .blen ∨ r = .e3len ∨ r = .e5len →
    if (r = .algo ∧ 256 ≤ v) ∨ (r = .wlen ∧ 16777216 ≤ v) then step s = .refused (.registerValueTooWide r v)
    else
      ∃ t, step s = .next t ∧ registerValue r t = v ∧ (∀ q, q ≠ r → registerValue q t = registerValue q s) ∧
        t = { s with algo := t.algo, wlen := t.wlen, blen := t.blen, e3len := t.e3len, e5len := t.e5len, input := rest }

/-- 10_state.md R22, R23, R28: a host read of a register returns its value, `STATUS` as the number of its code, and changes
no state of the block; what a read of `CMD` returns is unspecified (U6), here a free value of 3 bits that counts as one draw,
and every other read draws none (the model's, log 12). That `readData` holds what is returned is the model's (log 2). -/
def Obligations.RegisterReadsReturnTheValue : Prop :=
  ([.idle, .ok, .inputTooShort, .unexpectedEndOfData, .missingExtension, .incompleteStride, .unspecifiedBitOffset,
      .refusedCapacity, .illegalCommand] : List Status).map Status.code = [0, 1, 2, 3, 4, 5, 6, 7, 8] ∧
  ∀ (s : State) (r : Reg) (rest : List HostAct), s.replaying = false → s.input = .readReg r :: rest →
    ∃ t, step s = .next t ∧
      t = { s with readData := t.readData, freeCount := t.freeCount, input := rest } ∧
      (r ≠ .cmd → t.freeCount = s.freeCount) ∧
      (r = .cmd → t.freeCount = s.freeCount + 1 ∧ ∃ v, t.readData = some v ∧ v < 8) ∧
      (r = .status → t.readData = some s.status.code) ∧
      (r = .algo → t.readData = some s.algo.toNat) ∧
      (r = .count → t.readData = some s.count.toNat) ∧
      (r = .wlen → t.readData = some s.wlen.toNat) ∧
      (r = .blen → t.readData = some s.blen) ∧
      (r = .e3len → t.readData = some s.e3len) ∧
      (r = .e5len → t.readData = some s.e5len) ∧
      (r = .errExpected → t.readData = some s.errExpected) ∧
      (r = .errActual → t.readData = some s.errActual) ∧
      (r = .cap → t.readData = some s.cap)

/-- 10_state.md R24, 20_memory.md R68: a host write of an existing cell stores the value; every other cell of every buffer
reads as before and nothing else changes. A write at or above the capacity (U12) or of a value the cell cannot hold (U8) is
refused; the two refusals are the model's (log 11). -/
def Obligations.WrittenCellsReadBackAndNoOtherChanges : Prop :=
  ∀ (s : State) (b : BufId) (i v : Nat) (rest : List HostAct),
    s.replaying = false → s.input = .writeCell b i v :: rest →
    (cellExists s.cfg b i = false → step s = .refused (.noSuchCell b i)) ∧
    (cellExists s.cfg b i = true → 2 ^ cellWidth b ≤ v → step s = .refused (.cellValueTooWide b v)) ∧
    (cellExists s.cfg b i = true → v < 2 ^ cellWidth b →
      ∃ t, step s = .next t ∧ cellValue b i t = some v ∧
        (∀ b' i', (b', i') ≠ (b, i) → cellValue b' i' t = cellValue b' i' s) ∧
        t = { s with wbuf := t.wbuf, bbuf := t.bbuf, e3buf := t.e3buf, e5buf := t.e5buf, input := rest })

/-- 10_state.md R24, R27: the model refuses a host read of a cell at or above the capacity, and a host read of a cell that
nothing has written is a fault (logs 5, 11); a read of a written cell returns its value and changes nothing else. -/
def Obligations.HostReadsOfCells : Prop :=
  ∀ (s : State) (b : BufId) (i : Nat) (rest : List HostAct), s.replaying = false → s.input = .readCell b i :: rest →
    (cellExists s.cfg b i = false → step s = .refused (.noSuchCell b i)) ∧
    (cellExists s.cfg b i = true → cellValue b i s = none → step s = .fault (.unwrittenCell b i)) ∧
    (∀ v, cellExists s.cfg b i = true → cellValue b i s = some v →
      step s = .next { s with readData := some v, input := rest })

/-! Encodings. -/

/-- 30_encoding.md R96, R104, R105: some words written out from the two opcode maps. The last clause, that a byte of value 8
is no instruction and is refused, is no word of the maps: it is the model's choice (log 11). -/
def Obligations.OpcodeWordsDecode : Prop :=
  decodeBytes .span3 [0b00000000#8] = .ok (.t, []) ∧ decodeBytes .span3 [0b00000110#8] = .ok (.d6, []) ∧
  decodeBytes .span3 [0b00000111#8] = .ok (.x, []) ∧ decodeBytes .cmd [0b00000001#8] = .ok (.encode, []) ∧
  decodeBytes .cmd [0b00000010#8] = .ok (.decode, []) ∧ decodeBytes .cmd [0b00000110#8] = .ok (.unpack5, []) ∧
  decodeBytes .cmd [0b00000111#8] = .ok (.reserved7, []) ∧ decodeBytes .cmd [0b00001000#8] = .error (.tooWide 8)

/-- 30_encoding.md R96, R104, R105: in each format every well-formed instruction decodes from its word, and every word
decodes to a well-formed instruction whose word it is. -/
def Obligations.InstructionWordsAreOneToOne : Prop :=
  ∀ f : Format,
    (∀ i : Instr, i.wellFormed f = true →
      decodeWord f (encode i) = i ∧ decodeBytes f [(encode i).setWidth 8] = .ok (i, [])) ∧
    (∀ c : BitVec 3, (decodeWord f c).wellFormed f = true ∧ encode (decodeWord f c) = c)

/-- 30_encoding.md R95, R96, 42_pack3.md R191 to R194: a span program written as words, packed into bytes, unpacked and
decoded is the program again, followed by the terminators that the pad bits look like. -/
def Obligations.SpanProgramsSurvivePacking : Prop :=
  ∀ p : List Instr, spanProgram p = true →
    (unpack3 (pack3 (p.map encode))).map decodeSpan =
      p ++ List.replicate (unpackCount 3 (pack3Size p.length) - p.length) .t

/-- 30_encoding.md R109: `SET d` for d from 1 to 38 is `D<d>` up to 6 and `X <d - 7>` from 7 on. -/
def Obligations.SetExpandsToTheCodeOfTheDistance : Prop :=
  ∀ d : Nat,
    (1 ≤ d ∧ d ≤ 6 → ∃ i, expandSet d = some (i, none) ∧ i ∈ [Instr.d1, .d2, .d3, .d4, .d5, .d6] ∧
      (encode i).toNat = d) ∧
    (7 ≤ d ∧ d ≤ 38 → ∃ e : Ext, expandSet d = some (.x, some e) ∧ e.toNat = d - 7) ∧
    (d = 0 ∨ 38 < d → expandSet d = none)

/-- 20_memory.md R61: the count is big-endian in the header, on decode and on encode. -/
def Obligations.CountIsBigEndian : Prop :=
  (∀ (b : List Byte), b.length = 4 →
    headerCount b = ((b.getD 1 0).setWidth 24 <<< 16) ||| ((b.getD 2 0).setWidth 24 <<< 8) ||| (b.getD 3 0).setWidth 24) ∧
  (∀ (a : Byte) (count : BitVec 24),
    frameHeader a count = [a, (count >>> 16).setWidth 8, (count >>> 8).setWidth 8, count.setWidth 8]) ∧
  be24 1 = [0, 0, 1]

/-! Span codes. -/

/-- 41_span_decoder.md R163: the six literal codes execute `advance` with the code value as the distance, and nothing else:
no memory, `xp`, `wp` or `fp_prev` is touched. Past position 32 the command ends (R159, R160) in the end state of R168; that
this is a next state and no fault of the model is the model's deduction (log 6). -/
def Obligations.LiteralCodesAdvanceByTheirValue : Prop :=
  ∀ (c : Span) (s : State), 1 ≤ c.toNat → c.toNat ≤ 6 →
    (s.dec.bo + c.toNat ≤ 32 →
      exec (decodeSpan c) s =
        .next { s with
          dec := { s.dec with
            bo := s.dec.bo + c.toNat
            fp := s.dec.fp ||| (1#32 <<< (s.dec.bo + c.toNat - 1)) } }) ∧
    (32 < s.dec.bo + c.toNat → ∃ t, exec (decodeSpan c) s = .next t ∧ StoppedDecode .unspecifiedBitOffset s t)

/-- 41_span_decoder.md R171: `D1` is code 001 and executes `advance(1)`; 32 of them from `bo = 0` build 0xFFFFFFFF and a
33rd stops the command. That the stop is a next state with the end state of R168 is the model's deduction (log 6). -/
def Obligations.ThirtyTwoD1FillTheWord : Prop :=
  decodeSpan 0b001#3 = .d1 ∧
  (∀ s : State, s.dec.bo ≤ 31 →
    exec .d1 s =
      .next { s with dec := { s.dec with bo := s.dec.bo + 1, fp := s.dec.fp ||| (1#32 <<< (s.dec.bo + 1 - 1)) } }) ∧
  (∀ s : State, 32 ≤ s.dec.bo → ∃ t, exec .d1 s = .next t ∧ StoppedDecode .unspecifiedBitOffset s t) ∧
  (∀ (s : State) (n : Nat), s.dec.bo = 0 → s.dec.fp = 0 → n ≤ 32 →
    ∃ t, (List.range n).foldl
        (fun (o : Host.Outcome State Fault Refusal) _ => match o with | .next u => exec .d1 u | other => other)
        (.next s) = .next t ∧
      t = { s with dec := { s.dec with bo := n, fp := BitVec.ofNat 32 (2 ^ n - 1) } })

/-- 41_span_decoder.md R172 to R176: `D2` to `D6`: the code, the advance, and from which `bo` on the command stops; a
distance of 7 is never a literal. That the stop (R160) is a next state with the end state of R168 is the model's
deduction (log 6). -/
def Obligations.D2ToD6AdvanceOrStop : Prop :=
  decodeSpan 0b010#3 = .d2 ∧ decodeSpan 0b011#3 = .d3 ∧ decodeSpan 0b100#3 = .d4 ∧ decodeSpan 0b101#3 = .d5 ∧
  decodeSpan 0b110#3 = .d6 ∧ expandSet 7 = some (.x, some 0) ∧
  ∀ (s : State) (i : Instr) (k : Nat),
    (i, k) ∈ [(Instr.d2, 2), (.d3, 3), (.d4, 4), (.d5, 5), (.d6, 6)] →
    (s.dec.bo + k ≤ 32 →
      exec i s =
        .next { s with dec := { s.dec with bo := s.dec.bo + k, fp := s.dec.fp ||| (1#32 <<< (s.dec.bo + k - 1)) } }) ∧
    (33 - k ≤ s.dec.bo → ∃ t, exec i s = .next t ∧ StoppedDecode .unspecifiedBitOffset s t)

/-- 41_span_decoder.md R162: `T` XORs the value with the previous one, stores it at `WBUF[wp]` and starts the next; no other
cell and no other register changes. Where the model has no cell `wp` it stops (log 8). -/
def Obligations.TerminatorStoresTheSubFingerprint : Prop :=
  ∀ s : State,
    (s.dec.wp < s.cfg.wcap.val →
      ∃ t, exec .t s = .next t ∧
        t.wbuf.read s.dec.wp = some (s.dec.fp ^^^ s.dec.fpPrev) ∧
        (∀ i, i ≠ s.dec.wp → t.wbuf.read i = s.wbuf.read i) ∧
        t = { s with
          wbuf := t.wbuf
          dec := { s.dec with wp := s.dec.wp + 1, fpPrev := s.dec.fp ^^^ s.dec.fpPrev, fp := 0, bo := 0 } }) ∧
    (s.cfg.wcap.val ≤ s.dec.wp → exec .t s = .fault (.noSuchCell .wbuf s.dec.wp))

/-- 41_span_decoder.md R164, 30_encoding.md R102: `X` pops the next extension e and advances by 7 + e; beyond position 32,
so for every e of 26 or more, the command ends (R160). Memory is unchanged where the replay goes on. That the end is a next
state with the end state of R168 is the model's deduction (log 6). Where there is no extension cell `xp`, or nothing has
written it, which no replay meets, the model stops (10_state.md R24, R27; logs 5, 8). -/
def Obligations.EscapeConsumesTheNextExtension : Prop :=
  ∀ s : State,
    (cellExists s.cfg .e5buf s.dec.xp = false → exec .x s = .fault (.noSuchCell .e5buf s.dec.xp)) ∧
    (cellExists s.cfg .e5buf s.dec.xp = true → s.e5buf.read s.dec.xp = none →
      exec .x s = .fault (.unwrittenCell .e5buf s.dec.xp)) ∧
    (∀ e : Ext, cellExists s.cfg .e5buf s.dec.xp = true → s.e5buf.read s.dec.xp = some e →
      (s.dec.bo + 7 + e.toNat ≤ 32 →
        exec .x s =
          .next { s with
            dec := { s.dec with
              xp := s.dec.xp + 1
              bo := s.dec.bo + 7 + e.toNat
              fp := s.dec.fp ||| (1#32 <<< (s.dec.bo + 7 + e.toNat - 1)) } }) ∧
      (32 < s.dec.bo + 7 + e.toNat → ∃ t, exec .x s = .next t ∧ StoppedDecode .unspecifiedBitOffset s t) ∧
      (26 ≤ e.toNat → ∃ t, exec .x s = .next t ∧ t.status.code = 6))

/-! `ENCODE`. -/

/-- 40_span_encoder.md R130, R138 to R142, R144: where the input is written and the capacities suffice, `ENCODE` ends `OK`
with the frame, the streams and the registers as stated. Nothing else changes but the working registers, the model's own
fields and `ERR_EXPECTED` and `ERR_ACTUAL`, which are left open (U7, log 10). -/
def Obligations.EncodeWritesTheFrame : Prop :=
  ∀ (s : State) (ws : List Word), s.wbuf.Holds ws → ws.length = s.wlen.toNat → ws.length ≤ s.cfg.wcap.val →
    exceeds (transform ws).1.length s.cfg.e3cap = false → exceeds (transform ws).2.length s.cfg.e5cap = false →
    exceeds (4 + pack3Size (transform ws).1.length + pack5Size (transform ws).2.length) s.cfg.bcap = false →
    ∃ t, exec .encode s = .next t ∧ t.status = .ok ∧
      t.bbuf.Holds (compress ws s.algo) ∧ t.blen = (compress ws s.algo).length ∧
      t.blen = 4 + (3 * (transform ws).1.length + 7) / 8 + (5 * (transform ws).2.length + 7) / 8 ∧
      t.cap = 4 + pack3Size (transform ws).1.length + pack5Size (transform ws).2.length ∧
      t.count = s.wlen ∧
      t.e3buf.Holds (transform ws).1 ∧ t.e3len = (transform ws).1.length ∧
      t.e5buf.Holds (transform ws).2 ∧ t.e5len = (transform ws).2.length ∧
      EncodeFrame s t

/-- 40_span_encoder.md R143: `ENCODE` is refused in four cases and no other, and its inputs are then unchanged. The frame
leaves `ERR_EXPECTED` and `ERR_ACTUAL` open (U7, log 10). -/
def Obligations.EncodeRefusedExactlyForCapacity : Prop :=
  (∀ s : State, s.cfg.wcap.val < s.wlen.toNat →
    ∃ t, exec .encode s = .next t ∧ t.status = .refusedCapacity ∧ EncodeFrame s t) ∧
  (∀ (s : State) (ws : List Word), s.wbuf.Holds ws → ws.length = s.wlen.toNat →
    ∃ t, exec .encode s = .next t ∧ EncodeFrame s t ∧
      (t.status = .refusedCapacity ↔
        (s.cfg.wcap.val < s.wlen.toNat ∨ exceeds (transform ws).1.length s.cfg.e3cap = true ∨
          exceeds (transform ws).2.length s.cfg.e5cap = true ∨
          exceeds (4 + pack3Size (transform ws).1.length + pack5Size (transform ws).2.length) s.cfg.bcap = true)))

/-- 40_span_encoder.md R137: the streams are the runs of the deltas one after another; how many spans, escapes,
terminators and extensions there are, how long a run is, and that its distances sum to the highest set position. The spec
marks these facts as derived. -/
def Obligations.TransformStreamsHaveTheirShape : Prop :=
  (∀ ws : List Word,
    transform ws =
        ((deltasFrom 0 ws).flatMap (fun d => (transform [d]).1), (deltasFrom 0 ws).flatMap (fun d => (transform [d]).2)) ∧
      (transform ws).1.length = ws.length + totalSetBits ws ∧
      (transform ws).1.count 0 = ws.length ∧
      (transform ws).2.length = (transform ws).1.count 7 ∧
      ∀ e ∈ (transform ws).2, e.toNat ≤ 25) ∧
  (∀ d : Word,
    1 ≤ (transform [d]).1.length ∧ (transform [d]).1.length ≤ 33 ∧ (transform [d]).1.count 7 ≤ 4 ∧
      (transform [d]).1.getLast? = some 0 ∧
      ((transform [d]).1.map BitVec.toNat).sum + ((transform [d]).2.map BitVec.toNat).sum =
        (if d = 0 then 0 else Nat.log2 d.toNat + 1))

/-- 40_span_encoder.md R141, 43_pack5.md R211: the reserve is at least the frame and exceeds it by a table on X mod 8. -/
def Obligations.ReserveExceedsTheFrameByTheTable : Prop :=
  ∀ spans exts : Nat,
    frameLength spans exts ≤ reservedSize spans exts ∧
    reservedSize spans exts - frameLength spans exts = [5, 4, 3, 3, 2, 1, 1, 0].getD (exts % 8) 0

/-! `DECODE`. -/

/-- 41_span_decoder.md R150, R166, R167: where the pure decoder answers `Ok(a, ws)` for the bytes in `BBUF`, `DECODE` ends
`OK` with that answer in its outputs, and nothing outside its outputs changes. -/
def Obligations.DecodeReportsTheSequence : Prop :=
  ∀ (s : State) (bs : List Byte) (a : Byte) (ws : List Word) (spans : List Span) (exts : List Ext),
    s.bbuf.Holds bs → bs.length = s.blen → decompress s.cfg bs = .ok a ws spans exts →
    ∃ t, exec .decode s = .next t ∧ t.status = .ok ∧ t.algo = a ∧
      t.count = headerCount (bs.take 4) ∧ t.wlen = t.count ∧ t.wlen.toNat = ws.length ∧ t.wbuf.Holds ws ∧
      t.e3len = spans.length ∧ t.e3buf.Holds spans ∧ t.e5len = exts.length ∧ t.e5buf.Holds exts ∧
      DecodeFrame s t

/-- 41_span_decoder.md R168, 60_exceptions.md R241, R244: where the pure decoder stops, `DECODE` ends with that stop's
status, `WLEN` 0, the operands of `MissingExtension`, and nothing outside its outputs changed. That `UnspecifiedBitOffset`
(R160, U1) is a next state like the others is the model's deduction (log 6). -/
def Obligations.DecodeReportsTheStop : Prop :=
  ∀ (s : State) (bs : List Byte) (c : Stop), s.bbuf.Holds bs → bs.length = s.blen →
    decompress s.cfg bs = .stopped c → ∃ t, exec .decode s = .next t ∧ StoppedDecode c s t

/-- 41_span_decoder.md R151: fewer than 4 bytes give `InputTooShort`, whatever the buffer holds. -/
def Obligations.ShortInputIsReportedUnread : Prop :=
  ∀ s : State, exceeds s.blen s.cfg.bcap = false → s.blen < 4 →
    ∃ t, exec .decode s = .next t ∧ t.status = .inputTooShort ∧ t.status.code = 2 ∧
      StoppedDecode (.error .inputTooShort) s t

/-- 60_exceptions.md R236: no run of `DECODE` reports `IncompleteStride`. -/
def Obligations.IncompleteStrideIsNeverReported : Prop :=
  ∀ s t : State, exec .decode s = .next t → t.status ≠ .incompleteStride

/-- 41_span_decoder.md R178: after a `DECODE` that ends `OK` the cursors stand at the ends of their streams. -/
def Obligations.DecodeEndsWithItsCursorsAtTheEnd : Prop :=
  ∀ s t : State, exec .decode s = .next t → t.status = .ok →
    t.dec.sp = t.dec.spanLength ∧ t.dec.xp = t.dec.sc ∧ t.dec.wp = t.count.toNat ∧ t.dec.tc = t.count.toNat ∧
      t.dec.fp = 0 ∧ t.dec.bo = 0 ∧ t.e3len = t.dec.spanLength ∧ t.e5len = t.dec.available ∧
      t.dec.sc ≤ t.dec.available ∧ t.dec.spanLength ≤ t.dec.unpackedSpans

/-- 60_exceptions.md R233: the operands of `MissingExtension`: actual is always less than expected, and actual is the
number of whole extensions the bytes after the span stream supply. -/
def Obligations.MissingExtensionOperandsAreOrdered : Prop :=
  ∀ s t : State, exec .decode s = .next t → t.status = .missingExtension →
    t.errActual < t.errExpected ∧ t.errExpected = t.dec.sc ∧
      t.errActual = (8 * (s.blen - (4 + pack3Size t.dec.spanLength))) / 5

/-- 20_memory.md R76, 10_state.md R26: whatever the outcome, `DECODE` changes nothing outside its outputs: not `BBUF`, `BLEN`,
`CAP`, nor the encoder's registers. -/
def Obligations.DecodeChangesNothingOutsideItsOutputs : Prop :=
  ∀ s t : State, exec .decode s = .next t → DecodeFrame s t

/-- 41_span_decoder.md R155, D11: a frame with count 0 decodes to the empty sequence whatever follows the header. -/
def Obligations.CountZeroDecodesToNothing : Prop :=
  ∀ (p : Bool) (a : Byte) (junk : List Byte),
    Decodes { Config.unbounded with countPrecheck := p } (a :: 0 :: 0 :: 0 :: junk) a []

/-- 41_span_decoder.md R179: the round trip, its side condition, what happens without it, a sufficient condition, and the
two smallest counterexamples. -/
def Obligations.RoundTripUnderTheCountCheck : Prop :=
  (∀ (ws : List Word) (a : Byte), ws.length ≤ 16777215 →
    Decodes { Config.unbounded with countPrecheck := false } (compress ws a) a ws ∧
    (ws.length ≤ (compress ws a).length - 4 → Decodes Config.unbounded (compress ws a) a ws) ∧
    ((compress ws a).length - 4 < ws.length →
      decompress Config.unbounded (compress ws a) = .stopped (.error .unexpectedEndOfData)) ∧
    (5 * ws.length ≤ 3 * totalSetBits ws → ws.length ≤ (compress ws a).length - 4)) ∧
  (∀ a : Byte,
    compress [0, 0] a = [a, 0, 0, 2, 0] ∧
    decompress Config.unbounded (compress [0, 0] a) = .stopped (.error .unexpectedEndOfData) ∧
    decompress Config.unbounded (compress [1, 1, 1] a) = .stopped (.error .unexpectedEndOfData))

/-- 41_span_decoder.md R179, 70_reset_and_hazards.md R274, R275 on the machine: `ENCODE` and then `DECODE` give back the
words and the id. -/
def Obligations.EncodeThenDecodeRestoresTheWords : Prop :=
  ∀ (s : State) (ws : List Word), s.wbuf.Holds ws → ws.length = s.wlen.toNat → ws.length ≤ s.cfg.wcap.val →
    s.cfg.bcap = none → s.cfg.e3cap = none → s.cfg.e5cap = none →
    (s.cfg.countPrecheck = false ∨ ws.length ≤ (compress ws s.algo).length - 4) →
    ∃ t u, exec .encode s = .next t ∧ exec .decode t = .next u ∧
      u.status = .ok ∧ u.algo = s.algo ∧ u.wlen = s.wlen ∧ u.count = s.wlen ∧ u.wbuf.Holds ws

/-- 41_span_decoder.md R169: a frame followed by arbitrary bytes decodes as the frame alone. -/
def Obligations.TrailingBytesAreIgnored : Prop :=
  ∀ (p : Bool) (frame junk : List Byte) (a : Byte) (ws : List Word),
    Decodes { Config.unbounded with countPrecheck := p } frame a ws →
    Decodes { Config.unbounded with countPrecheck := p } (frame ++ junk) a ws

/-! The packers. -/

/-- 42_pack3.md R196: `PACK3`. Outside its outputs only
`ERR_EXPECTED` and `ERR_ACTUAL` are left open (U7, log 10), beside the working registers and the model's own fields. -/
def Obligations.Pack3PacksTheSpanBuffer : Prop :=
  decodeCommand 0b011#3 = .pack3 ∧
  (∀ s : State, exceeds s.e3len s.cfg.e3cap = true →
    ∃ t, exec .pack3 s = .next t ∧ t.status = .refusedCapacity ∧ PackFrame s t) ∧
  (∀ (s : State) (xs : List Span), s.e3buf.Holds xs → xs.length = s.e3len → exceeds s.e3len s.cfg.e3cap = false →
    (exceeds (pack3Size s.e3len) s.cfg.bcap = true →
      ∃ t, exec .pack3 s = .next t ∧ t.status = .refusedCapacity ∧ PackFrame s t) ∧
    (exceeds (pack3Size s.e3len) s.cfg.bcap = false →
      ∃ t, exec .pack3 s = .next t ∧ t.status = .ok ∧ t.bbuf.Holds (pack3 xs) ∧
        (pack3 xs).length = pack3Size s.e3len ∧ t.blen = pack3Size s.e3len ∧ t.cap = pack3Size s.e3len ∧
        PackFrame s t))

/-- 42_pack3.md R197: `UNPACK3`. Outside its outputs only
`ERR_EXPECTED` and `ERR_ACTUAL` are left open (U7, log 10), beside the working registers and the model's own fields. -/
def Obligations.Unpack3UnpacksTheByteBuffer : Prop :=
  decodeCommand 0b100#3 = .unpack3 ∧
  (∀ s : State, exceeds s.blen s.cfg.bcap = true →
    ∃ t, exec .unpack3 s = .next t ∧ t.status = .refusedCapacity ∧ Unpack3Frame s t) ∧
  (∀ (s : State) (bs : List Byte), s.bbuf.Holds bs → bs.length = s.blen → exceeds s.blen s.cfg.bcap = false →
    (exceeds (8 * s.blen / 3) s.cfg.e3cap = true →
      ∃ t, exec .unpack3 s = .next t ∧ t.status = .refusedCapacity ∧ Unpack3Frame s t) ∧
    (exceeds (8 * s.blen / 3) s.cfg.e3cap = false →
      ∃ t, exec .unpack3 s = .next t ∧ t.status = .ok ∧ t.e3buf.Holds (unpack3 bs) ∧
        (unpack3 bs).length = 8 * s.blen / 3 ∧ t.e3len = 8 * s.blen / 3 ∧ Unpack3Frame s t))

/-- 43_pack5.md R217: `PACK5`, with the reserve in `CAP`. Outside its outputs only
`ERR_EXPECTED` and `ERR_ACTUAL` are left open (U7, log 10), beside the working registers and the model's own fields. -/
def Obligations.Pack5PacksTheExtensionBuffer : Prop :=
  decodeCommand 0b101#3 = .pack5 ∧
  (∀ s : State, exceeds s.e5len s.cfg.e5cap = true →
    ∃ t, exec .pack5 s = .next t ∧ t.status = .refusedCapacity ∧ PackFrame s t) ∧
  (∀ (s : State) (xs : List Ext), s.e5buf.Holds xs → xs.length = s.e5len → exceeds s.e5len s.cfg.e5cap = false →
    (exceeds (pack5Size s.e5len) s.cfg.bcap = true →
      ∃ t, exec .pack5 s = .next t ∧ t.status = .refusedCapacity ∧ PackFrame s t) ∧
    (exceeds (pack5Size s.e5len) s.cfg.bcap = false →
      ∃ t, exec .pack5 s = .next t ∧ t.status = .ok ∧ t.bbuf.Holds (pack5 xs) ∧
        (pack5 xs).length = packedLen 5 s.e5len ∧ t.blen = packedLen 5 s.e5len ∧ t.cap = pack5Size s.e5len ∧
        PackFrame s t))

/-- 43_pack5.md R218: `UNPACK5`. Outside its outputs only
`ERR_EXPECTED` and `ERR_ACTUAL` are left open (U7, log 10), beside the working registers and the model's own fields. -/
def Obligations.Unpack5UnpacksTheByteBuffer : Prop :=
  decodeCommand 0b110#3 = .unpack5 ∧
  (∀ s : State, exceeds s.blen s.cfg.bcap = true →
    ∃ t, exec .unpack5 s = .next t ∧ t.status = .refusedCapacity ∧ Unpack5Frame s t) ∧
  (∀ (s : State) (bs : List Byte), s.bbuf.Holds bs → bs.length = s.blen → exceeds s.blen s.cfg.bcap = false →
    (exceeds (8 * s.blen / 5) s.cfg.e5cap = true →
      ∃ t, exec .unpack5 s = .next t ∧ t.status = .refusedCapacity ∧ Unpack5Frame s t) ∧
    (exceeds (8 * s.blen / 5) s.cfg.e5cap = false →
      ∃ t, exec .unpack5 s = .next t ∧ t.status = .ok ∧ t.e5buf.Holds (unpack5 bs) ∧
        (unpack5 bs).length = 8 * s.blen / 5 ∧ t.e5len = 8 * s.blen / 5 ∧ Unpack5Frame s t))

/-- 30_encoding.md R95: bit p of the packed bytes is bit p mod w of element p div w, and every pad bit is 0. -/
def Obligations.PackedBitsFollowTheBitString : Prop :=
  ∀ (w : Nat) (xs : List (BitVec w)), w = 3 ∨ w = 5 →
    (packElements xs).length = (w * xs.length + 7) / 8 ∧
    ∀ p : Nat, p < 8 * (packElements xs).length →
      ((packElements xs).getD (p / 8) 0).getLsbD (p % 8) =
        if p < w * xs.length then (xs.getD (p / w) 0).getLsbD (p % w) else false

/-- 42_pack3.md R193, 43_pack5.md R214: the unpackers return every whole element, element j the bits w*j to w*j + w - 1. -/
def Obligations.UnpackedElementsAreTheBitsOfTheString : Prop :=
  ∀ (w : Nat) (bs : List Byte), w = 3 ∨ w = 5 →
    (unpackElements w bs).1.length = 8 * bs.length / w ∧
    ∀ j t : Nat, j < (unpackElements w bs).1.length → t < w →
      ((unpackElements w bs).1.getD j 0).getLsbD t = (bs.getD ((w * j + t) / 8) 0).getLsbD ((w * j + t) % 8)

/-- 30_encoding.md R98, R99: the bytes of a full stride and of every partial stride of 3-bit elements. The spec
derives these formulas from R95. -/
def Obligations.ThreeBitStrideLayouts : Prop :=
  (∀ e0 e1 e2 e3 e4 e5 e6 e7 : Span,
    let z := fun (e : Span) => (e.setWidth 8 : Byte)
    let b0 := z e0 ||| (z e1 <<< 3) ||| ((z e2 &&& 0x03) <<< 6)
    let b1 := ((z e2 &&& 0x04) >>> 2) ||| (z e3 <<< 1) ||| (z e4 <<< 4) ||| ((z e5 &&& 0x01) <<< 7)
    let b2 := ((z e5 &&& 0x06) >>> 1) ||| (z e6 <<< 2) ||| (z e7 <<< 5)
    (∀ rest, pack3 (e0 :: e1 :: e2 :: e3 :: e4 :: e5 :: e6 :: e7 :: rest) = b0 :: b1 :: b2 :: pack3 rest) ∧
    pack3 [] = [] ∧
    pack3 [e0] = [z e0] ∧
    pack3 [e0, e1] = [z e0 ||| (z e1 <<< 3)] ∧
    pack3 [e0, e1, e2] = [b0, (z e2 &&& 0x04) >>> 2] ∧
    pack3 [e0, e1, e2, e3] = [b0, ((z e2 &&& 0x04) >>> 2) ||| (z e3 <<< 1)] ∧
    pack3 [e0, e1, e2, e3, e4] = [b0, ((z e2 &&& 0x04) >>> 2) ||| (z e3 <<< 1) ||| (z e4 <<< 4)] ∧
    pack3 [e0, e1, e2, e3, e4, e5] = [b0, b1, (z e5 &&& 0x06) >>> 1] ∧
    pack3 [e0, e1, e2, e3, e4, e5, e6] = [b0, b1, ((z e5 &&& 0x06) >>> 1) ||| (z e6 <<< 2)])

/-- 30_encoding.md R100, R101: the bytes of a full stride and of every partial stride of 5-bit elements. The spec
derives these formulas from R95. -/
def Obligations.FiveBitStrideLayouts : Prop :=
  (∀ e0 e1 e2 e3 e4 e5 e6 e7 : Ext,
    let z := fun (e : Ext) => (e.setWidth 8 : Byte)
    let b0 := z e0 ||| ((z e1 &&& 0x07) <<< 5)
    let b1 := ((z e1 &&& 0x18) >>> 3) ||| (z e2 <<< 2) ||| ((z e3 &&& 0x01) <<< 7)
    let b2 := ((z e3 &&& 0x1E) >>> 1) ||| ((z e4 &&& 0x0F) <<< 4)
    let b3 := ((z e4 &&& 0x10) >>> 4) ||| (z e5 <<< 1) ||| ((z e6 &&& 0x03) <<< 6)
    let b4 := ((z e6 &&& 0x1C) >>> 2) ||| (z e7 <<< 3)
    (∀ rest, pack5 (e0 :: e1 :: e2 :: e3 :: e4 :: e5 :: e6 :: e7 :: rest) = b0 :: b1 :: b2 :: b3 :: b4 :: pack5 rest) ∧
    pack5 [] = [] ∧
    pack5 [e0] = [z e0] ∧
    pack5 [e0, e1] = [b0, (z e1 &&& 0x18) >>> 3] ∧
    pack5 [e0, e1, e2] = [b0, ((z e1 &&& 0x18) >>> 3) ||| (z e2 <<< 2)] ∧
    pack5 [e0, e1, e2, e3] = [b0, b1, (z e3 &&& 0x1E) >>> 1] ∧
    pack5 [e0, e1, e2, e3, e4] = [b0, b1, b2, (z e4 &&& 0x10) >>> 4] ∧
    pack5 [e0, e1, e2, e3, e4, e5] = [b0, b1, b2, ((z e4 &&& 0x10) >>> 4) ||| (z e5 <<< 1)] ∧
    pack5 [e0, e1, e2, e3, e4, e5, e6] = [b0, b1, b2, b3, (z e6 &&& 0x1C) >>> 2])

/-- 30_encoding.md R103: the elements of a full stride of bytes and of every tail, for both widths. -/
def Obligations.StrideExtraction : Prop :=
  (∀ b0 b1 b2 : Byte,
    let e2 := (b0 >>> 6) ||| ((b1 &&& 0x01) <<< 2)
    let e5 := (b1 >>> 7) ||| ((b2 &&& 0x03) <<< 1)
    let cut := fun (l : List Byte) => l.map (fun b => (b.setWidth 3 : Span))
    (∀ rest, unpack3 (b0 :: b1 :: b2 :: rest) =
      cut [b0 &&& 0x07, (b0 >>> 3) &&& 0x07, e2, (b1 >>> 1) &&& 0x07, (b1 >>> 4) &&& 0x07, e5, (b2 >>> 2) &&& 0x07,
        (b2 >>> 5) &&& 0x07] ++ unpack3 rest) ∧
    unpack3 [b0, b1] = cut [b0 &&& 0x07, (b0 >>> 3) &&& 0x07, e2, (b1 >>> 1) &&& 0x07, (b1 >>> 4) &&& 0x07] ∧
    unpack3 [b0] = cut [b0 &&& 0x07, (b0 >>> 3) &&& 0x07]) ∧
  (∀ b0 b1 b2 b3 b4 : Byte,
    let e1 := (b0 >>> 5) ||| ((b1 &&& 0x03) <<< 3)
    let e3 := (b1 >>> 7) ||| ((b2 &&& 0x0F) <<< 1)
    let e4 := (b2 >>> 4) ||| ((b3 &&& 0x01) <<< 4)
    let e6 := (b3 >>> 6) ||| ((b4 &&& 0x07) <<< 2)
    let cut := fun (l : List Byte) => l.map (fun b => (b.setWidth 5 : Ext))
    (∀ rest, unpack5 (b0 :: b1 :: b2 :: b3 :: b4 :: rest) =
      cut [b0 &&& 0x1F, e1, (b1 >>> 2) &&& 0x1F, e3, e4, (b3 >>> 1) &&& 0x1F, e6, (b4 >>> 3) &&& 0x1F] ++
        unpack5 rest) ∧
    unpack5 [b0, b1, b2, b3] = cut [b0 &&& 0x1F, e1, (b1 >>> 2) &&& 0x1F, e3, e4, (b3 >>> 1) &&& 0x1F] ∧
    unpack5 [b0, b1, b2] = cut [b0 &&& 0x1F, e1, (b1 >>> 2) &&& 0x1F, e3] ∧
    unpack5 [b0, b1] = cut [b0 &&& 0x1F, e1, (b1 >>> 2) &&& 0x1F] ∧
    unpack5 [b0] = cut [b0 &&& 0x1F])

/-- 42_pack3.md R194: `unpack3` is the inverse of `pack3` up to a tail of zeros, and in the other direction up to the ignored
top bits of the last byte. -/
def Obligations.Unpack3InvertsPack3UpToATail : Prop :=
  (∀ xs : List Span,
    unpack3 (pack3 xs) = xs ++ List.replicate (8 * pack3Size xs.length / 3 - xs.length) 0 ∧
    8 * pack3Size xs.length / 3 - xs.length = [0, 1, 0, 2, 1, 0, 2, 1].getD (xs.length % 8) 0) ∧
  (∀ bs : List Byte,
    pack3 (unpack3 bs) =
      bs.dropLast ++ bs.getLast?.toList.map (fun b => b &&& (0xFF#8 >>> [0, 2, 1].getD (bs.length % 3) 0)))

/-- 43_pack5.md R216: the same for the 5-bit elements. -/
def Obligations.Unpack5InvertsPack5UpToATail : Prop :=
  (∀ xs : List Ext,
    unpack5 (pack5 xs) = xs ++ List.replicate (8 * packedLen 5 xs.length / 5 - xs.length) 0 ∧
    8 * packedLen 5 xs.length / 5 - xs.length = [0, 0, 1, 0, 0, 1, 0, 1].getD (xs.length % 8) 0) ∧
  (∀ bs : List Byte,
    pack5 (unpack5 bs) =
      bs.dropLast ++ bs.getLast?.toList.map (fun b => b &&& (0xFF#8 >>> [0, 3, 1, 4, 2].getD (bs.length % 5) 0)))

/-- 42_pack3.md R190, 43_pack5.md R210, R211: the size formulas, their values by stride and tail, and the reserve. The
spec derives the table of the last clause from R210. -/
def Obligations.SizeFormulas : Prop :=
  ∀ n : Nat,
    pack3Size n = (3 * n + 7) / 8 ∧ pack3Size n = packedLen 3 n ∧
    pack3Size n = 3 * (n / 8) + [0, 1, 1, 2, 2, 2, 3, 3].getD (n % 8) 0 ∧
    packedLen 5 n = 5 * (n / 8) + [0, 1, 2, 2, 3, 4, 4, 5].getD (n % 8) 0 ∧
    pack5Size n = (n / 8 + 1) * 5 ∧
    packedLen 5 n ≤ pack5Size n ∧
    pack5Size n - packedLen 5 n = [5, 4, 3, 3, 2, 1, 1, 0].getD (n % 8) 0

/-! Reserved values, and the whole machine. -/

/-- 30_encoding.md R105, 60_exceptions.md R237: a write of 0 or 7 to `CMD` sets `STATUS` to 8 and changes nothing else.
That this is a next state, where R105 says "refusal", is the model's deduction (log 9). -/
def Obligations.ReservedCommandsChangeOnlyStatus : Prop :=
  (∀ s : State, exec .reserved0 s = .next { s with status := .illegalCommand } ∧
    exec .reserved7 s = .next { s with status := .illegalCommand }) ∧
  Status.illegalCommand.code = 8 ∧
  (∀ (s : State) (v : Nat) (rest : List HostAct), s.replaying = false → s.input = .writeReg .cmd v :: rest →
    v = 0 ∨ v = 7 → step s = .next { s with input := rest, status := .illegalCommand })

/-- 60_exceptions.md R239: `ENCODE`, the packers and the unpackers end `OK` or `RefusedCapacity` and nothing else. -/
def Obligations.CodersEndOkOrRefused : Prop :=
  ∀ (i : Instr) (s t : State), i ∈ [Instr.encode, .pack3, .unpack3, .pack5, .unpack5] → exec i s = .next t →
    t.status = .ok ∨ t.status = .refusedCapacity

/-- 60_exceptions.md R238, 00_scope.md R7: with all four capacities unbounded no command is refused. -/
def Obligations.UnboundedBlockNeverRefusesCapacity : Prop :=
  ∀ (i : Instr) (s t : State), i.wellFormed .cmd = true → s.cfg.wcap.val = 16777215 → s.cfg.bcap = none →
    s.cfg.e3cap = none → s.cfg.e5cap = none → exec i s = .next t → t.status ≠ .refusedCapacity

/-- 10_state.md R21: no command depends on what an earlier command left in the working registers. -/
def Obligations.CommandsIgnoreTheWorkingRegisters : Prop :=
  ∀ (i : Instr) (s : State), i.wellFormed .cmd = true →
    clearOutcome (exec i s) = clearOutcome (exec i s.clearWork)

/-- 10_state.md R27, U5: a command whose read reaches a cell nothing has written stops. That it stops with a fault, that the
fault names the first such cell, and which tests of the command come before the read are the model's choices, since R27
leaves the result unspecified (logs 5, 13). -/
def Obligations.UnwrittenInputStopsTheCommand : Prop :=
  ∀ (s : State) (i : Nat),
    (i < s.wlen.toNat → s.wlen.toNat ≤ s.cfg.wcap.val → s.wbuf.read i = none → (∀ j < i, s.wbuf.read j ≠ none) →
      exec .encode s = .fault (.unwrittenCell .wbuf i)) ∧
    (i < s.e3len → exceeds s.e3len s.cfg.e3cap = false → exceeds (pack3Size s.e3len) s.cfg.bcap = false →
      s.e3buf.read i = none → (∀ j < i, s.e3buf.read j ≠ none) →
      exec .pack3 s = .fault (.unwrittenCell .e3buf i)) ∧
    (i < s.e5len → exceeds s.e5len s.cfg.e5cap = false → exceeds (pack5Size s.e5len) s.cfg.bcap = false →
      s.e5buf.read i = none → (∀ j < i, s.e5buf.read j ≠ none) →
      exec .pack5 s = .fault (.unwrittenCell .e5buf i)) ∧
    (exceeds s.blen s.cfg.bcap = false → s.bbuf.read i = none → (∀ j < i, s.bbuf.read j ≠ none) →
      (i < s.blen → exceeds (unpackCount 3 s.blen) s.cfg.e3cap = false →
        exec .unpack3 s = .fault (.unwrittenCell .bbuf i)) ∧
      (i < s.blen → exceeds (unpackCount 5 s.blen) s.cfg.e5cap = false →
        exec .unpack5 s = .fault (.unwrittenCell .bbuf i)) ∧
      (i < 4 → 4 ≤ s.blen → exec .decode s = .fault (.unwrittenCell .bbuf i)) ∧
      (∀ header, 4 ≤ i → i < s.blen → header.length = 4 → s.bbuf.Holds header →
        (s.cfg.countPrecheck = false ∨ (headerCount header).toNat ≤ s.blen - 4) →
        exceeds (unpackCount 3 (s.blen - 4)) s.cfg.e3cap = false →
        exec .decode s = .fault (.unwrittenCell .bbuf i)))

/-- 00_scope.md R6, R7, 10_state.md R20: the parameters are fixed; no step changes them. That they stand in the state is the
model's (log 3). -/
def Obligations.NoStepChangesTheParameters : Prop :=
  ∀ s t : State, step s = .next t → t.cfg = s.cfg

/-- The state after reset is safe. The canonical form and the marks are the model's (logs 4, 5). -/
def Obligations.ResetStateIsSafe : Prop :=
  State.reset.Inv

/-- Every step from a safe state leads to a safe state: buffers canonical, no cell at or above a capacity ever written
(10_state.md R24, 60_exceptions.md R238), no command left running (00_scope.md R18). The canonical form and the marks are
the model's (logs 4, 5). -/
def Obligations.EveryStepKeepsTheStateSafe : Prop :=
  ∀ s t : State, s.Inv → step s = .next t → t.Inv
end

