-- ==== Sys2Proof/Laws/State.lean ====
section
/-! SUPPORT. One lemma per field and update of the state: what the update makes of the field. All are true by
definition. -/

namespace Sys2Proof.Machine

/-! A command ends. -/

@[simp] theorem endCommand_status (st : Status) (s : State) :
    (endCommand st s).status = st := rfl
@[simp] theorem endCommand_algo (st : Status) (s : State) :
    (endCommand st s).algo = s.algo := rfl
@[simp] theorem endCommand_count (st : Status) (s : State) :
    (endCommand st s).count = s.count := rfl
@[simp] theorem endCommand_wlen (st : Status) (s : State) :
    (endCommand st s).wlen = s.wlen := rfl
@[simp] theorem endCommand_blen (st : Status) (s : State) :
    (endCommand st s).blen = s.blen := rfl
@[simp] theorem endCommand_e3len (st : Status) (s : State) :
    (endCommand st s).e3len = s.e3len := rfl
@[simp] theorem endCommand_e5len (st : Status) (s : State) :
    (endCommand st s).e5len = s.e5len := rfl
@[simp] theorem endCommand_errExpected (st : Status) (s : State) :
    (endCommand st s).errExpected = Config.freeReg s.freeCount 8 := rfl
@[simp] theorem endCommand_errActual (st : Status) (s : State) :
    (endCommand st s).errActual = Config.freeReg s.freeCount 9 := rfl
@[simp] theorem endCommand_cap (st : Status) (s : State) :
    (endCommand st s).cap = s.cap := rfl
@[simp] theorem endCommand_wbuf (st : Status) (s : State) :
    (endCommand st s).wbuf = s.wbuf := rfl
@[simp] theorem endCommand_bbuf (st : Status) (s : State) :
    (endCommand st s).bbuf = s.bbuf := rfl
@[simp] theorem endCommand_e3buf (st : Status) (s : State) :
    (endCommand st s).e3buf = s.e3buf := rfl
@[simp] theorem endCommand_e5buf (st : Status) (s : State) :
    (endCommand st s).e5buf = s.e5buf := rfl
@[simp] theorem endCommand_enc (st : Status) (s : State) :
    (endCommand st s).enc = s.enc := rfl
@[simp] theorem endCommand_dec (st : Status) (s : State) :
    (endCommand st s).dec = s.dec := rfl
@[simp] theorem endCommand_pack (st : Status) (s : State) :
    (endCommand st s).pack = s.pack := rfl
@[simp] theorem endCommand_cfg (st : Status) (s : State) :
    (endCommand st s).cfg = s.cfg := rfl
@[simp] theorem endCommand_replaying (st : Status) (s : State) :
    (endCommand st s).replaying = false := rfl
@[simp] theorem endCommand_freeCount (st : Status) (s : State) :
    (endCommand st s).freeCount = s.freeCount + 1 := rfl
@[simp] theorem endCommand_readData (st : Status) (s : State) :
    (endCommand st s).readData = s.readData := rfl
@[simp] theorem endCommand_input (st : Status) (s : State) :
    (endCommand st s).input = s.input := rfl

/-! An error is raised. -/

@[simp] theorem raise_status (c : Stop) (s : State) :
    (raise c s).status = c.status := rfl
@[simp] theorem raise_algo (c : Stop) (s : State) :
    (raise c s).algo = s.algo := rfl
@[simp] theorem raise_count (c : Stop) (s : State) :
    (raise c s).count = s.count := rfl
@[simp] theorem raise_wlen (c : Stop) (s : State) :
    (raise c s).wlen = s.wlen := rfl
@[simp] theorem raise_blen (c : Stop) (s : State) :
    (raise c s).blen = s.blen := rfl
@[simp] theorem raise_e3len (c : Stop) (s : State) :
    (raise c s).e3len = s.e3len := rfl
@[simp] theorem raise_e5len (c : Stop) (s : State) :
    (raise c s).e5len = s.e5len := rfl
@[simp] theorem raise_errExpected (c : Stop) (s : State) :
    (raise c s).errExpected = (c.operands.map Prod.fst).getD (Config.freeReg s.freeCount 8) := rfl
@[simp] theorem raise_errActual (c : Stop) (s : State) :
    (raise c s).errActual = (c.operands.map Prod.snd).getD (Config.freeReg s.freeCount 9) := rfl
@[simp] theorem raise_cap (c : Stop) (s : State) :
    (raise c s).cap = s.cap := rfl
@[simp] theorem raise_wbuf (c : Stop) (s : State) :
    (raise c s).wbuf = s.wbuf := rfl
@[simp] theorem raise_bbuf (c : Stop) (s : State) :
    (raise c s).bbuf = s.bbuf := rfl
@[simp] theorem raise_e3buf (c : Stop) (s : State) :
    (raise c s).e3buf = s.e3buf := rfl
@[simp] theorem raise_e5buf (c : Stop) (s : State) :
    (raise c s).e5buf = s.e5buf := rfl
@[simp] theorem raise_enc (c : Stop) (s : State) :
    (raise c s).enc = s.enc := rfl
@[simp] theorem raise_dec (c : Stop) (s : State) :
    (raise c s).dec = s.dec := rfl
@[simp] theorem raise_pack (c : Stop) (s : State) :
    (raise c s).pack = s.pack := rfl
@[simp] theorem raise_cfg (c : Stop) (s : State) :
    (raise c s).cfg = s.cfg := rfl
@[simp] theorem raise_replaying (c : Stop) (s : State) :
    (raise c s).replaying = false := rfl
@[simp] theorem raise_freeCount (c : Stop) (s : State) :
    (raise c s).freeCount = s.freeCount + 1 := rfl
@[simp] theorem raise_readData (c : Stop) (s : State) :
    (raise c s).readData = s.readData := rfl
@[simp] theorem raise_input (c : Stop) (s : State) :
    (raise c s).input = s.input := rfl

/-! `DECODE` stops. -/

@[simp] theorem stopDecode_status (c : Stop) (s : State) :
    (stopDecode c s).status = c.status := rfl
@[simp] theorem stopDecode_algo (c : Stop) (s : State) :
    (stopDecode c s).algo = BitVec.ofNat 8 (Config.freeReg s.freeCount 2) := rfl
@[simp] theorem stopDecode_count (c : Stop) (s : State) :
    (stopDecode c s).count = BitVec.ofNat 24 (Config.freeReg s.freeCount 3) := rfl
@[simp] theorem stopDecode_wlen (c : Stop) (s : State) :
    (stopDecode c s).wlen = 0 := rfl
@[simp] theorem stopDecode_blen (c : Stop) (s : State) :
    (stopDecode c s).blen = s.blen := rfl
@[simp] theorem stopDecode_e3len (c : Stop) (s : State) :
    (stopDecode c s).e3len = Config.freeReg s.freeCount 6 := rfl
@[simp] theorem stopDecode_e5len (c : Stop) (s : State) :
    (stopDecode c s).e5len = Config.freeReg s.freeCount 7 := rfl
@[simp] theorem stopDecode_errExpected (c : Stop) (s : State) :
    (stopDecode c s).errExpected = (c.operands.map Prod.fst).getD (Config.freeReg s.freeCount 8) := rfl
@[simp] theorem stopDecode_errActual (c : Stop) (s : State) :
    (stopDecode c s).errActual = (c.operands.map Prod.snd).getD (Config.freeReg s.freeCount 9) := rfl
@[simp] theorem stopDecode_cap (c : Stop) (s : State) :
    (stopDecode c s).cap = s.cap := rfl
@[simp] theorem stopDecode_wbuf (c : Stop) (s : State) :
    (stopDecode c s).wbuf = Buf.unspecified 32 s.freeCount := rfl
@[simp] theorem stopDecode_bbuf (c : Stop) (s : State) :
    (stopDecode c s).bbuf = s.bbuf := rfl
@[simp] theorem stopDecode_e3buf (c : Stop) (s : State) :
    (stopDecode c s).e3buf = Buf.unspecified 3 s.freeCount := rfl
@[simp] theorem stopDecode_e5buf (c : Stop) (s : State) :
    (stopDecode c s).e5buf = Buf.unspecified 5 s.freeCount := rfl
@[simp] theorem stopDecode_enc (c : Stop) (s : State) :
    (stopDecode c s).enc = s.enc := rfl
@[simp] theorem stopDecode_dec (c : Stop) (s : State) :
    (stopDecode c s).dec = s.dec := rfl
@[simp] theorem stopDecode_pack (c : Stop) (s : State) :
    (stopDecode c s).pack = s.pack := rfl
@[simp] theorem stopDecode_cfg (c : Stop) (s : State) :
    (stopDecode c s).cfg = s.cfg := rfl
@[simp] theorem stopDecode_replaying (c : Stop) (s : State) :
    (stopDecode c s).replaying = false := rfl
@[simp] theorem stopDecode_freeCount (c : Stop) (s : State) :
    (stopDecode c s).freeCount = s.freeCount + 1 := rfl
@[simp] theorem stopDecode_readData (c : Stop) (s : State) :
    (stopDecode c s).readData = s.readData := rfl
@[simp] theorem stopDecode_input (c : Stop) (s : State) :
    (stopDecode c s).input = s.input := rfl

/-! `ENCODE` is refused. -/

@[simp] theorem refuseEncode_status (s : State) :
    (refuseEncode s).status = .refusedCapacity := rfl
@[simp] theorem refuseEncode_algo (s : State) :
    (refuseEncode s).algo = s.algo := rfl
@[simp] theorem refuseEncode_count (s : State) :
    (refuseEncode s).count = BitVec.ofNat 24 (Config.freeReg s.freeCount 3) := rfl
@[simp] theorem refuseEncode_wlen (s : State) :
    (refuseEncode s).wlen = s.wlen := rfl
@[simp] theorem refuseEncode_blen (s : State) :
    (refuseEncode s).blen = Config.freeReg s.freeCount 5 := rfl
@[simp] theorem refuseEncode_e3len (s : State) :
    (refuseEncode s).e3len = Config.freeReg s.freeCount 6 := rfl
@[simp] theorem refuseEncode_e5len (s : State) :
    (refuseEncode s).e5len = Config.freeReg s.freeCount 7 := rfl
@[simp] theorem refuseEncode_errExpected (s : State) :
    (refuseEncode s).errExpected = Config.freeReg s.freeCount 8 := rfl
@[simp] theorem refuseEncode_errActual (s : State) :
    (refuseEncode s).errActual = Config.freeReg s.freeCount 9 := rfl
@[simp] theorem refuseEncode_cap (s : State) :
    (refuseEncode s).cap = Config.freeReg s.freeCount 10 := rfl
@[simp] theorem refuseEncode_wbuf (s : State) :
    (refuseEncode s).wbuf = s.wbuf := rfl
@[simp] theorem refuseEncode_bbuf (s : State) :
    (refuseEncode s).bbuf = Buf.unspecified 8 s.freeCount := rfl
@[simp] theorem refuseEncode_e3buf (s : State) :
    (refuseEncode s).e3buf = Buf.unspecified 3 s.freeCount := rfl
@[simp] theorem refuseEncode_e5buf (s : State) :
    (refuseEncode s).e5buf = Buf.unspecified 5 s.freeCount := rfl
@[simp] theorem refuseEncode_enc (s : State) :
    (refuseEncode s).enc = s.enc := rfl
@[simp] theorem refuseEncode_dec (s : State) :
    (refuseEncode s).dec = s.dec := rfl
@[simp] theorem refuseEncode_pack (s : State) :
    (refuseEncode s).pack = s.pack := rfl
@[simp] theorem refuseEncode_cfg (s : State) :
    (refuseEncode s).cfg = s.cfg := rfl
@[simp] theorem refuseEncode_replaying (s : State) :
    (refuseEncode s).replaying = false := rfl
@[simp] theorem refuseEncode_freeCount (s : State) :
    (refuseEncode s).freeCount = s.freeCount + 1 := rfl
@[simp] theorem refuseEncode_readData (s : State) :
    (refuseEncode s).readData = s.readData := rfl
@[simp] theorem refuseEncode_input (s : State) :
    (refuseEncode s).input = s.input := rfl

/-! `PACK3` or `PACK5` is refused. -/

@[simp] theorem refusePack_status (s : State) :
    (refusePack s).status = .refusedCapacity := rfl
@[simp] theorem refusePack_algo (s : State) :
    (refusePack s).algo = s.algo := rfl
@[simp] theorem refusePack_count (s : State) :
    (refusePack s).count = s.count := rfl
@[simp] theorem refusePack_wlen (s : State) :
    (refusePack s).wlen = s.wlen := rfl
@[simp] theorem refusePack_blen (s : State) :
    (refusePack s).blen = Config.freeReg s.freeCount 5 := rfl
@[simp] theorem refusePack_e3len (s : State) :
    (refusePack s).e3len = s.e3len := rfl
@[simp] theorem refusePack_e5len (s : State) :
    (refusePack s).e5len = s.e5len := rfl
@[simp] theorem refusePack_errExpected (s : State) :
    (refusePack s).errExpected = Config.freeReg s.freeCount 8 := rfl
@[simp] theorem refusePack_errActual (s : State) :
    (refusePack s).errActual = Config.freeReg s.freeCount 9 := rfl
@[simp] theorem refusePack_cap (s : State) :
    (refusePack s).cap = Config.freeReg s.freeCount 10 := rfl
@[simp] theorem refusePack_wbuf (s : State) :
    (refusePack s).wbuf = s.wbuf := rfl
@[simp] theorem refusePack_bbuf (s : State) :
    (refusePack s).bbuf = Buf.unspecified 8 s.freeCount := rfl
@[simp] theorem refusePack_e3buf (s : State) :
    (refusePack s).e3buf = s.e3buf := rfl
@[simp] theorem refusePack_e5buf (s : State) :
    (refusePack s).e5buf = s.e5buf := rfl
@[simp] theorem refusePack_enc (s : State) :
    (refusePack s).enc = s.enc := rfl
@[simp] theorem refusePack_dec (s : State) :
    (refusePack s).dec = s.dec := rfl
@[simp] theorem refusePack_pack (s : State) :
    (refusePack s).pack = s.pack := rfl
@[simp] theorem refusePack_cfg (s : State) :
    (refusePack s).cfg = s.cfg := rfl
@[simp] theorem refusePack_replaying (s : State) :
    (refusePack s).replaying = false := rfl
@[simp] theorem refusePack_freeCount (s : State) :
    (refusePack s).freeCount = s.freeCount + 1 := rfl
@[simp] theorem refusePack_readData (s : State) :
    (refusePack s).readData = s.readData := rfl
@[simp] theorem refusePack_input (s : State) :
    (refusePack s).input = s.input := rfl

/-! `UNPACK3` is refused. -/

@[simp] theorem refuseUnpack3_status (s : State) :
    (refuseUnpack3 s).status = .refusedCapacity := rfl
@[simp] theorem refuseUnpack3_algo (s : State) :
    (refuseUnpack3 s).algo = s.algo := rfl
@[simp] theorem refuseUnpack3_count (s : State) :
    (refuseUnpack3 s).count = s.count := rfl
@[simp] theorem refuseUnpack3_wlen (s : State) :
    (refuseUnpack3 s).wlen = s.wlen := rfl
@[simp] theorem refuseUnpack3_blen (s : State) :
    (refuseUnpack3 s).blen = s.blen := rfl
@[simp] theorem refuseUnpack3_e3len (s : State) :
    (refuseUnpack3 s).e3len = Config.freeReg s.freeCount 6 := rfl
@[simp] theorem refuseUnpack3_e5len (s : State) :
    (refuseUnpack3 s).e5len = s.e5len := rfl
@[simp] theorem refuseUnpack3_errExpected (s : State) :
    (refuseUnpack3 s).errExpected = Config.freeReg s.freeCount 8 := rfl
@[simp] theorem refuseUnpack3_errActual (s : State) :
    (refuseUnpack3 s).errActual = Config.freeReg s.freeCount 9 := rfl
@[simp] theorem refuseUnpack3_cap (s : State) :
    (refuseUnpack3 s).cap = s.cap := rfl
@[simp] theorem refuseUnpack3_wbuf (s : State) :
    (refuseUnpack3 s).wbuf = s.wbuf := rfl
@[simp] theorem refuseUnpack3_bbuf (s : State) :
    (refuseUnpack3 s).bbuf = s.bbuf := rfl
@[simp] theorem refuseUnpack3_e3buf (s : State) :
    (refuseUnpack3 s).e3buf = Buf.unspecified 3 s.freeCount := rfl
@[simp] theorem refuseUnpack3_e5buf (s : State) :
    (refuseUnpack3 s).e5buf = s.e5buf := rfl
@[simp] theorem refuseUnpack3_enc (s : State) :
    (refuseUnpack3 s).enc = s.enc := rfl
@[simp] theorem refuseUnpack3_dec (s : State) :
    (refuseUnpack3 s).dec = s.dec := rfl
@[simp] theorem refuseUnpack3_pack (s : State) :
    (refuseUnpack3 s).pack = s.pack := rfl
@[simp] theorem refuseUnpack3_cfg (s : State) :
    (refuseUnpack3 s).cfg = s.cfg := rfl
@[simp] theorem refuseUnpack3_replaying (s : State) :
    (refuseUnpack3 s).replaying = false := rfl
@[simp] theorem refuseUnpack3_freeCount (s : State) :
    (refuseUnpack3 s).freeCount = s.freeCount + 1 := rfl
@[simp] theorem refuseUnpack3_readData (s : State) :
    (refuseUnpack3 s).readData = s.readData := rfl
@[simp] theorem refuseUnpack3_input (s : State) :
    (refuseUnpack3 s).input = s.input := rfl

/-! `UNPACK5` is refused. -/

@[simp] theorem refuseUnpack5_status (s : State) :
    (refuseUnpack5 s).status = .refusedCapacity := rfl
@[simp] theorem refuseUnpack5_algo (s : State) :
    (refuseUnpack5 s).algo = s.algo := rfl
@[simp] theorem refuseUnpack5_count (s : State) :
    (refuseUnpack5 s).count = s.count := rfl
@[simp] theorem refuseUnpack5_wlen (s : State) :
    (refuseUnpack5 s).wlen = s.wlen := rfl
@[simp] theorem refuseUnpack5_blen (s : State) :
    (refuseUnpack5 s).blen = s.blen := rfl
@[simp] theorem refuseUnpack5_e3len (s : State) :
    (refuseUnpack5 s).e3len = s.e3len := rfl
@[simp] theorem refuseUnpack5_e5len (s : State) :
    (refuseUnpack5 s).e5len = Config.freeReg s.freeCount 7 := rfl
@[simp] theorem refuseUnpack5_errExpected (s : State) :
    (refuseUnpack5 s).errExpected = Config.freeReg s.freeCount 8 := rfl
@[simp] theorem refuseUnpack5_errActual (s : State) :
    (refuseUnpack5 s).errActual = Config.freeReg s.freeCount 9 := rfl
@[simp] theorem refuseUnpack5_cap (s : State) :
    (refuseUnpack5 s).cap = s.cap := rfl
@[simp] theorem refuseUnpack5_wbuf (s : State) :
    (refuseUnpack5 s).wbuf = s.wbuf := rfl
@[simp] theorem refuseUnpack5_bbuf (s : State) :
    (refuseUnpack5 s).bbuf = s.bbuf := rfl
@[simp] theorem refuseUnpack5_e3buf (s : State) :
    (refuseUnpack5 s).e3buf = s.e3buf := rfl
@[simp] theorem refuseUnpack5_e5buf (s : State) :
    (refuseUnpack5 s).e5buf = Buf.unspecified 5 s.freeCount := rfl
@[simp] theorem refuseUnpack5_enc (s : State) :
    (refuseUnpack5 s).enc = s.enc := rfl
@[simp] theorem refuseUnpack5_dec (s : State) :
    (refuseUnpack5 s).dec = s.dec := rfl
@[simp] theorem refuseUnpack5_pack (s : State) :
    (refuseUnpack5 s).pack = s.pack := rfl
@[simp] theorem refuseUnpack5_cfg (s : State) :
    (refuseUnpack5 s).cfg = s.cfg := rfl
@[simp] theorem refuseUnpack5_replaying (s : State) :
    (refuseUnpack5 s).replaying = false := rfl
@[simp] theorem refuseUnpack5_freeCount (s : State) :
    (refuseUnpack5 s).freeCount = s.freeCount + 1 := rfl
@[simp] theorem refuseUnpack5_readData (s : State) :
    (refuseUnpack5 s).readData = s.readData := rfl
@[simp] theorem refuseUnpack5_input (s : State) :
    (refuseUnpack5 s).input = s.input := rfl

/-! A reserved command value. -/

@[simp] theorem illegalCommand_status (s : State) :
    (illegalCommand s).status = .illegalCommand := rfl
@[simp] theorem illegalCommand_algo (s : State) :
    (illegalCommand s).algo = s.algo := rfl
@[simp] theorem illegalCommand_count (s : State) :
    (illegalCommand s).count = s.count := rfl
@[simp] theorem illegalCommand_wlen (s : State) :
    (illegalCommand s).wlen = s.wlen := rfl
@[simp] theorem illegalCommand_blen (s : State) :
    (illegalCommand s).blen = s.blen := rfl
@[simp] theorem illegalCommand_e3len (s : State) :
    (illegalCommand s).e3len = s.e3len := rfl
@[simp] theorem illegalCommand_e5len (s : State) :
    (illegalCommand s).e5len = s.e5len := rfl
@[simp] theorem illegalCommand_errExpected (s : State) :
    (illegalCommand s).errExpected = s.errExpected := rfl
@[simp] theorem illegalCommand_errActual (s : State) :
    (illegalCommand s).errActual = s.errActual := rfl
@[simp] theorem illegalCommand_cap (s : State) :
    (illegalCommand s).cap = s.cap := rfl
@[simp] theorem illegalCommand_wbuf (s : State) :
    (illegalCommand s).wbuf = s.wbuf := rfl
@[simp] theorem illegalCommand_bbuf (s : State) :
    (illegalCommand s).bbuf = s.bbuf := rfl
@[simp] theorem illegalCommand_e3buf (s : State) :
    (illegalCommand s).e3buf = s.e3buf := rfl
@[simp] theorem illegalCommand_e5buf (s : State) :
    (illegalCommand s).e5buf = s.e5buf := rfl
@[simp] theorem illegalCommand_enc (s : State) :
    (illegalCommand s).enc = s.enc := rfl
@[simp] theorem illegalCommand_dec (s : State) :
    (illegalCommand s).dec = s.dec := rfl
@[simp] theorem illegalCommand_pack (s : State) :
    (illegalCommand s).pack = s.pack := rfl
@[simp] theorem illegalCommand_cfg (s : State) :
    (illegalCommand s).cfg = s.cfg := rfl
@[simp] theorem illegalCommand_replaying (s : State) :
    (illegalCommand s).replaying = s.replaying := rfl
@[simp] theorem illegalCommand_freeCount (s : State) :
    (illegalCommand s).freeCount = s.freeCount := rfl
@[simp] theorem illegalCommand_readData (s : State) :
    (illegalCommand s).readData = s.readData := rfl
@[simp] theorem illegalCommand_input (s : State) :
    (illegalCommand s).input = s.input := rfl

/-! `ENCODE` ends `OK`. -/

@[simp] theorem storeFrame_status (e : Encoder) (s : State) :
    (storeFrame e s).status = .ok := rfl
@[simp] theorem storeFrame_algo (e : Encoder) (s : State) :
    (storeFrame e s).algo = s.algo := rfl
@[simp] theorem storeFrame_count (e : Encoder) (s : State) :
    (storeFrame e s).count = s.wlen := rfl
@[simp] theorem storeFrame_wlen (e : Encoder) (s : State) :
    (storeFrame e s).wlen = s.wlen := rfl
@[simp] theorem storeFrame_blen (e : Encoder) (s : State) :
    (storeFrame e s).blen = frameLength e.regs.spanCount e.regs.extCount := rfl
@[simp] theorem storeFrame_e3len (e : Encoder) (s : State) :
    (storeFrame e s).e3len = e.regs.spanCount := rfl
@[simp] theorem storeFrame_e5len (e : Encoder) (s : State) :
    (storeFrame e s).e5len = e.regs.extCount := rfl
@[simp] theorem storeFrame_errExpected (e : Encoder) (s : State) :
    (storeFrame e s).errExpected = Config.freeReg s.freeCount 8 := rfl
@[simp] theorem storeFrame_errActual (e : Encoder) (s : State) :
    (storeFrame e s).errActual = Config.freeReg s.freeCount 9 := rfl
@[simp] theorem storeFrame_cap (e : Encoder) (s : State) :
    (storeFrame e s).cap = reservedSize e.regs.spanCount e.regs.extCount := rfl
@[simp] theorem storeFrame_wbuf (e : Encoder) (s : State) :
    (storeFrame e s).wbuf = s.wbuf := rfl
@[simp] theorem storeFrame_bbuf (e : Encoder) (s : State) :
    (storeFrame e s).bbuf = Buf.ofSeq s.freeCount (frameOf s.algo s.wlen e.spans e.exts) := rfl
@[simp] theorem storeFrame_e3buf (e : Encoder) (s : State) :
    (storeFrame e s).e3buf = Buf.ofSeq s.freeCount e.spans := rfl
@[simp] theorem storeFrame_e5buf (e : Encoder) (s : State) :
    (storeFrame e s).e5buf = Buf.ofSeq s.freeCount e.exts := rfl
@[simp] theorem storeFrame_enc (e : Encoder) (s : State) :
    (storeFrame e s).enc = e.regs := rfl
@[simp] theorem storeFrame_dec (e : Encoder) (s : State) :
    (storeFrame e s).dec = s.dec := rfl
@[simp] theorem storeFrame_pack (e : Encoder) (s : State) :
    (storeFrame e s).pack = (packString e.exts).1 := rfl
@[simp] theorem storeFrame_cfg (e : Encoder) (s : State) :
    (storeFrame e s).cfg = s.cfg := rfl
@[simp] theorem storeFrame_replaying (e : Encoder) (s : State) :
    (storeFrame e s).replaying = false := rfl
@[simp] theorem storeFrame_freeCount (e : Encoder) (s : State) :
    (storeFrame e s).freeCount = s.freeCount + 1 := rfl
@[simp] theorem storeFrame_readData (e : Encoder) (s : State) :
    (storeFrame e s).readData = s.readData := rfl
@[simp] theorem storeFrame_input (e : Encoder) (s : State) :
    (storeFrame e s).input = s.input := rfl

/-! `PACK3` or `PACK5` ends `OK`. -/

@[simp] theorem storePacked_status (bs : List Byte) (r : PackRegs) (n : Nat) (s : State) :
    (storePacked bs r n s).status = .ok := rfl
@[simp] theorem storePacked_algo (bs : List Byte) (r : PackRegs) (n : Nat) (s : State) :
    (storePacked bs r n s).algo = s.algo := rfl
@[simp] theorem storePacked_count (bs : List Byte) (r : PackRegs) (n : Nat) (s : State) :
    (storePacked bs r n s).count = s.count := rfl
@[simp] theorem storePacked_wlen (bs : List Byte) (r : PackRegs) (n : Nat) (s : State) :
    (storePacked bs r n s).wlen = s.wlen := rfl
@[simp] theorem storePacked_blen (bs : List Byte) (r : PackRegs) (n : Nat) (s : State) :
    (storePacked bs r n s).blen = bs.length := rfl
@[simp] theorem storePacked_e3len (bs : List Byte) (r : PackRegs) (n : Nat) (s : State) :
    (storePacked bs r n s).e3len = s.e3len := rfl
@[simp] theorem storePacked_e5len (bs : List Byte) (r : PackRegs) (n : Nat) (s : State) :
    (storePacked bs r n s).e5len = s.e5len := rfl
@[simp] theorem storePacked_errExpected (bs : List Byte) (r : PackRegs) (n : Nat) (s : State) :
    (storePacked bs r n s).errExpected = Config.freeReg s.freeCount 8 := rfl
@[simp] theorem storePacked_errActual (bs : List Byte) (r : PackRegs) (n : Nat) (s : State) :
    (storePacked bs r n s).errActual = Config.freeReg s.freeCount 9 := rfl
@[simp] theorem storePacked_cap (bs : List Byte) (r : PackRegs) (n : Nat) (s : State) :
    (storePacked bs r n s).cap = n := rfl
@[simp] theorem storePacked_wbuf (bs : List Byte) (r : PackRegs) (n : Nat) (s : State) :
    (storePacked bs r n s).wbuf = s.wbuf := rfl
@[simp] theorem storePacked_bbuf (bs : List Byte) (r : PackRegs) (n : Nat) (s : State) :
    (storePacked bs r n s).bbuf = Buf.ofSeq s.freeCount bs := rfl
@[simp] theorem storePacked_e3buf (bs : List Byte) (r : PackRegs) (n : Nat) (s : State) :
    (storePacked bs r n s).e3buf = s.e3buf := rfl
@[simp] theorem storePacked_e5buf (bs : List Byte) (r : PackRegs) (n : Nat) (s : State) :
    (storePacked bs r n s).e5buf = s.e5buf := rfl
@[simp] theorem storePacked_enc (bs : List Byte) (r : PackRegs) (n : Nat) (s : State) :
    (storePacked bs r n s).enc = s.enc := rfl
@[simp] theorem storePacked_dec (bs : List Byte) (r : PackRegs) (n : Nat) (s : State) :
    (storePacked bs r n s).dec = s.dec := rfl
@[simp] theorem storePacked_pack (bs : List Byte) (r : PackRegs) (n : Nat) (s : State) :
    (storePacked bs r n s).pack = r := rfl
@[simp] theorem storePacked_cfg (bs : List Byte) (r : PackRegs) (n : Nat) (s : State) :
    (storePacked bs r n s).cfg = s.cfg := rfl
@[simp] theorem storePacked_replaying (bs : List Byte) (r : PackRegs) (n : Nat) (s : State) :
    (storePacked bs r n s).replaying = false := rfl
@[simp] theorem storePacked_freeCount (bs : List Byte) (r : PackRegs) (n : Nat) (s : State) :
    (storePacked bs r n s).freeCount = s.freeCount + 1 := rfl
@[simp] theorem storePacked_readData (bs : List Byte) (r : PackRegs) (n : Nat) (s : State) :
    (storePacked bs r n s).readData = s.readData := rfl
@[simp] theorem storePacked_input (bs : List Byte) (r : PackRegs) (n : Nat) (s : State) :
    (storePacked bs r n s).input = s.input := rfl

/-! The host reads a register. -/

@[simp] theorem readRegister_status (r : Reg) (s : State) :
    (readRegister r s).status = s.status := rfl
@[simp] theorem readRegister_algo (r : Reg) (s : State) :
    (readRegister r s).algo = s.algo := rfl
@[simp] theorem readRegister_count (r : Reg) (s : State) :
    (readRegister r s).count = s.count := rfl
@[simp] theorem readRegister_wlen (r : Reg) (s : State) :
    (readRegister r s).wlen = s.wlen := rfl
@[simp] theorem readRegister_blen (r : Reg) (s : State) :
    (readRegister r s).blen = s.blen := rfl
@[simp] theorem readRegister_e3len (r : Reg) (s : State) :
    (readRegister r s).e3len = s.e3len := rfl
@[simp] theorem readRegister_e5len (r : Reg) (s : State) :
    (readRegister r s).e5len = s.e5len := rfl
@[simp] theorem readRegister_errExpected (r : Reg) (s : State) :
    (readRegister r s).errExpected = s.errExpected := rfl
@[simp] theorem readRegister_errActual (r : Reg) (s : State) :
    (readRegister r s).errActual = s.errActual := rfl
@[simp] theorem readRegister_cap (r : Reg) (s : State) :
    (readRegister r s).cap = s.cap := rfl
@[simp] theorem readRegister_wbuf (r : Reg) (s : State) :
    (readRegister r s).wbuf = s.wbuf := rfl
@[simp] theorem readRegister_bbuf (r : Reg) (s : State) :
    (readRegister r s).bbuf = s.bbuf := rfl
@[simp] theorem readRegister_e3buf (r : Reg) (s : State) :
    (readRegister r s).e3buf = s.e3buf := rfl
@[simp] theorem readRegister_e5buf (r : Reg) (s : State) :
    (readRegister r s).e5buf = s.e5buf := rfl
@[simp] theorem readRegister_enc (r : Reg) (s : State) :
    (readRegister r s).enc = s.enc := rfl
@[simp] theorem readRegister_dec (r : Reg) (s : State) :
    (readRegister r s).dec = s.dec := rfl
@[simp] theorem readRegister_pack (r : Reg) (s : State) :
    (readRegister r s).pack = s.pack := rfl
@[simp] theorem readRegister_cfg (r : Reg) (s : State) :
    (readRegister r s).cfg = s.cfg := rfl
@[simp] theorem readRegister_replaying (r : Reg) (s : State) :
    (readRegister r s).replaying = s.replaying := rfl
@[simp] theorem readRegister_freeCount (r : Reg) (s : State) :
    (readRegister r s).freeCount = if r = .cmd then s.freeCount + 1 else s.freeCount := rfl
@[simp] theorem readRegister_readData (r : Reg) (s : State) :
    (readRegister r s).readData = some (registerValue r s) := rfl
@[simp] theorem readRegister_input (r : Reg) (s : State) :
    (readRegister r s).input = s.input := rfl

/-! The next action writes a word to `CMD`. -/

@[simp] theorem withFetchWord_status (s : State) (nbits w : Nat) :
    (s.withFetchWord nbits w).status = s.status := rfl
@[simp] theorem withFetchWord_algo (s : State) (nbits w : Nat) :
    (s.withFetchWord nbits w).algo = s.algo := rfl
@[simp] theorem withFetchWord_count (s : State) (nbits w : Nat) :
    (s.withFetchWord nbits w).count = s.count := rfl
@[simp] theorem withFetchWord_wlen (s : State) (nbits w : Nat) :
    (s.withFetchWord nbits w).wlen = s.wlen := rfl
@[simp] theorem withFetchWord_blen (s : State) (nbits w : Nat) :
    (s.withFetchWord nbits w).blen = s.blen := rfl
@[simp] theorem withFetchWord_e3len (s : State) (nbits w : Nat) :
    (s.withFetchWord nbits w).e3len = s.e3len := rfl
@[simp] theorem withFetchWord_e5len (s : State) (nbits w : Nat) :
    (s.withFetchWord nbits w).e5len = s.e5len := rfl
@[simp] theorem withFetchWord_errExpected (s : State) (nbits w : Nat) :
    (s.withFetchWord nbits w).errExpected = s.errExpected := rfl
@[simp] theorem withFetchWord_errActual (s : State) (nbits w : Nat) :
    (s.withFetchWord nbits w).errActual = s.errActual := rfl
@[simp] theorem withFetchWord_cap (s : State) (nbits w : Nat) :
    (s.withFetchWord nbits w).cap = s.cap := rfl
@[simp] theorem withFetchWord_wbuf (s : State) (nbits w : Nat) :
    (s.withFetchWord nbits w).wbuf = s.wbuf := rfl
@[simp] theorem withFetchWord_bbuf (s : State) (nbits w : Nat) :
    (s.withFetchWord nbits w).bbuf = s.bbuf := rfl
@[simp] theorem withFetchWord_e3buf (s : State) (nbits w : Nat) :
    (s.withFetchWord nbits w).e3buf = s.e3buf := rfl
@[simp] theorem withFetchWord_e5buf (s : State) (nbits w : Nat) :
    (s.withFetchWord nbits w).e5buf = s.e5buf := rfl
@[simp] theorem withFetchWord_enc (s : State) (nbits w : Nat) :
    (s.withFetchWord nbits w).enc = s.enc := rfl
@[simp] theorem withFetchWord_dec (s : State) (nbits w : Nat) :
    (s.withFetchWord nbits w).dec = s.dec := rfl
@[simp] theorem withFetchWord_pack (s : State) (nbits w : Nat) :
    (s.withFetchWord nbits w).pack = s.pack := rfl
@[simp] theorem withFetchWord_cfg (s : State) (nbits w : Nat) :
    (s.withFetchWord nbits w).cfg = s.cfg := rfl
@[simp] theorem withFetchWord_replaying (s : State) (nbits w : Nat) :
    (s.withFetchWord nbits w).replaying = false := rfl
@[simp] theorem withFetchWord_freeCount (s : State) (nbits w : Nat) :
    (s.withFetchWord nbits w).freeCount = s.freeCount := rfl
@[simp] theorem withFetchWord_readData (s : State) (nbits w : Nat) :
    (s.withFetchWord nbits w).readData = s.readData := rfl
@[simp] theorem withFetchWord_input (s : State) (nbits w : Nat) :
    (s.withFetchWord nbits w).input = .writeReg .cmd (tableByte nbits w).toNat :: s.input := rfl

/-! The working registers cleared. -/

@[simp] theorem clearWork_status (s : State) :
    (s.clearWork).status = s.status := rfl
@[simp] theorem clearWork_algo (s : State) :
    (s.clearWork).algo = s.algo := rfl
@[simp] theorem clearWork_count (s : State) :
    (s.clearWork).count = s.count := rfl
@[simp] theorem clearWork_wlen (s : State) :
    (s.clearWork).wlen = s.wlen := rfl
@[simp] theorem clearWork_blen (s : State) :
    (s.clearWork).blen = s.blen := rfl
@[simp] theorem clearWork_e3len (s : State) :
    (s.clearWork).e3len = s.e3len := rfl
@[simp] theorem clearWork_e5len (s : State) :
    (s.clearWork).e5len = s.e5len := rfl
@[simp] theorem clearWork_errExpected (s : State) :
    (s.clearWork).errExpected = s.errExpected := rfl
@[simp] theorem clearWork_errActual (s : State) :
    (s.clearWork).errActual = s.errActual := rfl
@[simp] theorem clearWork_cap (s : State) :
    (s.clearWork).cap = s.cap := rfl
@[simp] theorem clearWork_wbuf (s : State) :
    (s.clearWork).wbuf = s.wbuf := rfl
@[simp] theorem clearWork_bbuf (s : State) :
    (s.clearWork).bbuf = s.bbuf := rfl
@[simp] theorem clearWork_e3buf (s : State) :
    (s.clearWork).e3buf = s.e3buf := rfl
@[simp] theorem clearWork_e5buf (s : State) :
    (s.clearWork).e5buf = s.e5buf := rfl
@[simp] theorem clearWork_enc (s : State) :
    (s.clearWork).enc = EncRegs.start := rfl
@[simp] theorem clearWork_dec (s : State) :
    (s.clearWork).dec = DecRegs.start := rfl
@[simp] theorem clearWork_pack (s : State) :
    (s.clearWork).pack = PackRegs.start := rfl
@[simp] theorem clearWork_cfg (s : State) :
    (s.clearWork).cfg = s.cfg := rfl
@[simp] theorem clearWork_replaying (s : State) :
    (s.clearWork).replaying = s.replaying := rfl
@[simp] theorem clearWork_freeCount (s : State) :
    (s.clearWork).freeCount = s.freeCount := rfl
@[simp] theorem clearWork_readData (s : State) :
    (s.clearWork).readData = s.readData := rfl
@[simp] theorem clearWork_input (s : State) :
    (s.clearWork).input = s.input := rfl

/-! Hardware reset. -/

@[simp] theorem resetBlock_status (s : State) :
    (resetBlock s).status = State.reset.status := rfl
@[simp] theorem resetBlock_algo (s : State) :
    (resetBlock s).algo = State.reset.algo := rfl
@[simp] theorem resetBlock_count (s : State) :
    (resetBlock s).count = State.reset.count := rfl
@[simp] theorem resetBlock_wlen (s : State) :
    (resetBlock s).wlen = State.reset.wlen := rfl
@[simp] theorem resetBlock_blen (s : State) :
    (resetBlock s).blen = State.reset.blen := rfl
@[simp] theorem resetBlock_e3len (s : State) :
    (resetBlock s).e3len = State.reset.e3len := rfl
@[simp] theorem resetBlock_e5len (s : State) :
    (resetBlock s).e5len = State.reset.e5len := rfl
@[simp] theorem resetBlock_errExpected (s : State) :
    (resetBlock s).errExpected = State.reset.errExpected := rfl
@[simp] theorem resetBlock_errActual (s : State) :
    (resetBlock s).errActual = State.reset.errActual := rfl
@[simp] theorem resetBlock_cap (s : State) :
    (resetBlock s).cap = State.reset.cap := rfl
@[simp] theorem resetBlock_wbuf (s : State) :
    (resetBlock s).wbuf = State.reset.wbuf := rfl
@[simp] theorem resetBlock_bbuf (s : State) :
    (resetBlock s).bbuf = State.reset.bbuf := rfl
@[simp] theorem resetBlock_e3buf (s : State) :
    (resetBlock s).e3buf = State.reset.e3buf := rfl
@[simp] theorem resetBlock_e5buf (s : State) :
    (resetBlock s).e5buf = State.reset.e5buf := rfl
@[simp] theorem resetBlock_enc (s : State) :
    (resetBlock s).enc = State.reset.enc := rfl
@[simp] theorem resetBlock_dec (s : State) :
    (resetBlock s).dec = State.reset.dec := rfl
@[simp] theorem resetBlock_pack (s : State) :
    (resetBlock s).pack = State.reset.pack := rfl
@[simp] theorem resetBlock_cfg (s : State) :
    (resetBlock s).cfg = s.cfg := rfl
@[simp] theorem resetBlock_replaying (s : State) :
    (resetBlock s).replaying = State.reset.replaying := rfl
@[simp] theorem resetBlock_freeCount (s : State) :
    (resetBlock s).freeCount = s.freeCount := rfl
@[simp] theorem resetBlock_readData (s : State) :
    (resetBlock s).readData = s.readData := rfl
@[simp] theorem resetBlock_input (s : State) :
    (resetBlock s).input = s.input := rfl

end Sys2Proof.Machine
end

