-- ==== Sys2Proof/Laws/Buffer.lean ====
section
/-! SUPPORT. What the buffer operations do: reads after writes, sequences, and that every operation keeps the canonical
form, the capacity and the marks. -/

namespace Sys2Proof.Machine

variable {w : Nat}

/-! Reading and writing one cell. -/

theorem lookupCell_insertCell (l : List (Nat × BitVec w)) (i j : Nat) (v : BitVec w) :
    lookupCell (insertCell i v l) j = if i = j then some v else lookupCell l j := by
  induction l with
  | nil => simp [insertCell, lookupCell]
  | cons p ps ih =>
    simp only [insertCell]
    split
    · next h =>
      simp only [lookupCell, ih]
      by_cases hp : p.1 = j
      · have : i ≠ j := by omega
        simp [hp, this]
      · simp [hp]
    · split
      · next h1 h2 =>
        simp only [lookupCell]
        by_cases hij : i = j
        · simp [hij]
        · have : p.1 ≠ j := by omega
          simp [hij, this]
      · simp only [lookupCell]

@[simp] theorem Buf.write_rest (b : Buf w) (i : Nat) (v : BitVec w) : (b.write i v).rest = b.rest := rfl

@[simp] theorem Buf.unlisted_write (b : Buf w) (i j : Nat) (v : BitVec w) :
    (b.write i v).unlisted j = b.unlisted j := rfl

theorem Buf.read_write (b : Buf w) (i j : Nat) (v : BitVec w) :
    (b.write i v).read j = if i = j then some v else b.read j := by
  unfold Buf.read
  rw [Buf.unlisted_write, show (b.write i v).cells = insertCell i v b.cells from rfl, lookupCell_insertCell]
  by_cases h : i = j <;> simp [h]

@[simp] theorem Buf.read_write_same (b : Buf w) (i : Nat) (v : BitVec w) : (b.write i v).read i = some v := by
  simp [Buf.read_write]

theorem Buf.read_write_other (b : Buf w) {i j : Nat} (v : BitVec w) (h : i ≠ j) :
    (b.write i v).read j = b.read j := by
  simp [Buf.read_write, h]

@[simp] theorem Buf.read_unwritten (i : Nat) : (Buf.unwritten w).read i = none := rfl

@[simp] theorem Buf.read_unspecified (k i : Nat) :
    (Buf.unspecified w k).read i = some (Config.freeCell w k i) := rfl

/-! Sequences. -/

theorem lookupCell_numberFrom (xs : List (BitVec w)) (i j : Nat) :
    lookupCell (numberFrom i xs) j = if i ≤ j then xs[j - i]? else none := by
  induction xs generalizing i with
  | nil => simp [numberFrom, lookupCell]
  | cons x xs ih =>
    simp only [numberFrom, lookupCell, ih]
    by_cases h : i = j
    · simp [h]
    · by_cases h2 : i ≤ j
      · have h3 : i + 1 ≤ j := by omega
        have h4 : j - i = (j - (i + 1)) + 1 := by omega
        simp [h, h2, h3, h4]
      · have h3 : ¬ i + 1 ≤ j := by omega
        simp [h, h2, h3]

/-- A stored sequence reads back; above it the cells are unspecified. -/
theorem Buf.read_ofSeq (k : Nat) (xs : List (BitVec w)) (i : Nat) :
    (Buf.ofSeq k xs).read i = some ((xs[i]?).getD (Config.freeCell w k i)) := by
  unfold Buf.read
  rw [show (Buf.ofSeq k xs).cells = numberFrom 0 xs from rfl, lookupCell_numberFrom]
  cases h : xs[i]? <;> simp [Buf.unlisted, Buf.ofSeq]

theorem Buf.holds_ofSeq (k : Nat) (xs : List (BitVec w)) : (Buf.ofSeq k xs).Holds xs := by
  intro i h
  simp [Buf.read_ofSeq, h]

theorem lookupCell_filter (l : List (Nat × BitVec w)) (n i : Nat) :
    lookupCell (l.filter (fun p => decide (p.1 < n))) i = if i < n then lookupCell l i else none := by
  induction l with
  | nil => simp [lookupCell]
  | cons p ps ih =>
    by_cases hp : p.1 < n
    · simp only [List.filter_cons, hp, decide_true, if_true, lookupCell, ih]
      by_cases hi : p.1 = i
      · have : i < n := by omega
        simp [hi, this]
      · simp [hi]
    · have hf : (p :: ps).filter (fun p => decide (p.1 < n)) = ps.filter (fun p => decide (p.1 < n)) := by
        simp [hp]
      rw [hf, ih, lookupCell]
      by_cases hi : p.1 = i
      · have : ¬ i < n := by omega
        simp [this]
      · simp [hi]

/-- Truncation keeps the listed cells below `n`; the others become unspecified. -/
theorem Buf.read_truncate (b : Buf w) (n k i : Nat) :
    (b.truncate n k).read i =
      some ((if i < n then lookupCell b.cells i else none).getD (Config.freeCell w k i)) := by
  unfold Buf.read
  rw [show (b.truncate n k).cells = b.cells.filter (fun p => decide (p.1 < n)) from rfl, lookupCell_filter]
  cases h : (if i < n then lookupCell b.cells i else none) <;> simp [Buf.unlisted, Buf.truncate]

/-- Reading a range whose cells hold `xs` gives `xs`. -/
theorem Buf.readFrom_eq_ok (b : Buf w) (i : Nat) (xs : List (BitVec w))
    (h : ∀ (j : Nat) (hj : j < xs.length), b.read (i + j) = some xs[j]) :
    b.readFrom i xs.length = .ok xs := by
  induction xs generalizing i with
  | nil => rfl
  | cons x xs ih =>
    have h0 := h 0 (by simp)
    have ht : b.readFrom (i + 1) xs.length = .ok xs := by
      apply ih
      intro j hj
      have := h (j + 1) (by simpa using hj)
      rw [Nat.add_right_comm, Nat.add_assoc]
      simpa using this
    simp only [Nat.add_zero] at h0
    simp [Buf.readFrom, h0, ht]

theorem Buf.Holds.readFrom {b : Buf w} {xs : List (BitVec w)} (h : b.Holds xs) :
    b.readFrom 0 xs.length = .ok xs :=
  Buf.readFrom_eq_ok b 0 xs (by simpa [Buf.Holds] using h)

/-- What a successful read of a range says: as many elements as asked for, each the content of its cell. -/
theorem Buf.readFrom_ok {b : Buf w} {i n : Nat} {xs : List (BitVec w)} (h : b.readFrom i n = .ok xs) :
    xs.length = n ∧ ∀ (j : Nat) (hj : j < xs.length), b.read (i + j) = some xs[j] := by
  induction n generalizing i xs with
  | zero =>
    simp only [Buf.readFrom, Except.ok.injEq] at h
    subst h
    simp
  | succ n ih =>
    simp only [Buf.readFrom] at h
    split at h
    · cases h
    · next v hv =>
      split at h
      · next vs hvs =>
        simp only [Except.ok.injEq] at h
        subst h
        obtain ⟨hl, hr⟩ := ih hvs
        refine ⟨by simp [hl], ?_⟩
        intro j hj
        cases j with
        | zero => simpa using hv
        | succ j =>
          have := hr j (by simpa using hj)
          simpa [Nat.add_assoc, Nat.add_comm 1 j] using this
      · cases h

/-- What a failed read of a range says: the first cell without a value. -/
theorem Buf.readFrom_error {b : Buf w} {i n k : Nat} (h : b.readFrom i n = .error k) :
    i ≤ k ∧ k < i + n ∧ b.read k = none := by
  induction n generalizing i with
  | zero => simp [Buf.readFrom] at h
  | succ n ih =>
    simp only [Buf.readFrom] at h
    split at h
    · next hv =>
      simp only [Except.error.injEq] at h
      subst h
      exact ⟨Nat.le_refl _, by omega, hv⟩
    · split at h
      · cases h
      · next j hj =>
        simp only [Except.error.injEq] at h
        subst h
        obtain ⟨h1, h2, h3⟩ := ih hj
        exact ⟨by omega, by omega, h3⟩

/-! Capacities. -/

@[simp] theorem exceeds_none (n : Nat) : exceeds n none = false := rfl

@[simp] theorem exceeds_some (n c : Nat) : exceeds n (some c) = decide (c < n) := rfl

theorem exceeds_mono {m n : Nat} {cap : Option Nat} (h : m ≤ n) (hn : exceeds n cap = false) :
    exceeds m cap = false := by
  cases cap with
  | none => rfl
  | some c =>
    simp only [exceeds_some, decide_eq_false_iff_not] at hn ⊢
    omega

/-! Every buffer operation keeps a safe buffer safe: canonical, within its capacity, marked by the past. -/

theorem mem_insertCell {l : List (Nat × BitVec w)} {i : Nat} {v : BitVec w} {p : Nat × BitVec w}
    (h : p ∈ insertCell i v l) : p = (i, v) ∨ p ∈ l := by
  induction l with
  | nil => simpa [insertCell] using h
  | cons q qs ih =>
    simp only [insertCell] at h
    split at h
    · rcases List.mem_cons.mp h with rfl | h
      · simp
      · rcases ih h with h | h <;> simp [h]
    · split at h
      · rcases List.mem_cons.mp h with h | h <;> simp [h]
      · simpa using h

theorem insertCell_pairwise {l : List (Nat × BitVec w)} (i : Nat) (v : BitVec w)
    (h : l.Pairwise (fun p q => p.1 < q.1)) : (insertCell i v l).Pairwise (fun p q => p.1 < q.1) := by
  induction l with
  | nil => simp [insertCell]
  | cons q qs ih =>
    obtain ⟨hq, hqs⟩ := List.pairwise_cons.mp h
    simp only [insertCell]
    split
    · next hlt =>
      refine List.pairwise_cons.mpr ⟨?_, ih hqs⟩
      intro p hp
      rcases mem_insertCell hp with rfl | hp
      · exact hlt
      · exact hq p hp
    · split
      · next _ heq =>
        refine List.pairwise_cons.mpr ⟨?_, hqs⟩
        intro p hp
        have := hq p hp
        show i < p.1
        omega
      · refine List.pairwise_cons.mpr ⟨?_, h⟩
        intro p hp
        show i < p.1
        rcases List.mem_cons.mp hp with rfl | hp
        · omega
        · have := hq p hp
          omega

theorem Buf.write_wf {b : Buf w} (i : Nat) (v : BitVec w) (h : b.wf) : (b.write i v).wf :=
  insertCell_pairwise i v h

theorem Buf.write_safe {b : Buf w} {cap : Option Nat} {n i : Nat} (v : BitVec w) (h : b.Safe cap n)
    (hi : exceeds (i + 1) cap = false) : (b.write i v).Safe cap n where
  canonical := Buf.write_wf i v h.canonical
  within p hp := by
    rcases mem_insertCell hp with rfl | hp
    · exact hi
    · exact h.within p hp
  markBelow := h.markBelow

theorem mem_numberFrom {α : Type} {xs : List α} {i : Nat} {p : Nat × α} (h : p ∈ numberFrom i xs) :
    i ≤ p.1 ∧ p.1 < i + xs.length := by
  induction xs generalizing i with
  | nil => simp [numberFrom] at h
  | cons x xs ih =>
    rcases List.mem_cons.mp h with rfl | h
    · simp
    · have := ih h
      simp only [List.length_cons]
      omega

theorem numberFrom_pairwise {α : Type} (xs : List α) (i : Nat) :
    (numberFrom i xs).Pairwise (fun p q => p.1 < q.1) := by
  induction xs generalizing i with
  | nil => simp [numberFrom]
  | cons x xs ih =>
    refine List.pairwise_cons.mpr ⟨?_, ih (i + 1)⟩
    intro p hp
    have := mem_numberFrom hp
    show i < p.1
    omega

theorem Buf.ofSeq_wf (k : Nat) (xs : List (BitVec w)) : (Buf.ofSeq k xs).wf :=
  numberFrom_pairwise xs 0

theorem Buf.ofSeq_safe {cap : Option Nat} {k n : Nat} {xs : List (BitVec w)} (hc : exceeds xs.length cap = false)
    (hk : k < n) : (Buf.ofSeq k xs).Safe cap n where
  canonical := Buf.ofSeq_wf k xs
  within p hp := by
    have := mem_numberFrom hp
    exact exceeds_mono (by omega) hc
  markBelow k' h := by
    simp only [Buf.ofSeq, Option.some.injEq] at h
    omega

theorem Buf.unspecified_wf (k : Nat) : (Buf.unspecified w k).wf :=
  List.Pairwise.nil

theorem Buf.unspecified_safe {cap : Option Nat} {k n : Nat} (hk : k < n) : (Buf.unspecified w k).Safe cap n where
  canonical := Buf.unspecified_wf k
  within p hp := by simp [Buf.unspecified] at hp
  markBelow k' h := by
    simp only [Buf.unspecified, Option.some.injEq] at h
    omega

theorem Buf.unwritten_wf : (Buf.unwritten w).wf :=
  List.Pairwise.nil

theorem Buf.unwritten_safe {cap : Option Nat} {n : Nat} : (Buf.unwritten w).Safe cap n where
  canonical := Buf.unwritten_wf
  within p hp := by simp [Buf.unwritten] at hp
  markBelow k' h := by simp [Buf.unwritten] at h

theorem Buf.truncate_wf {b : Buf w} (n k : Nat) (h : b.wf) : (b.truncate n k).wf :=
  List.Pairwise.sublist List.filter_sublist h

theorem Buf.truncate_safe {b : Buf w} {cap : Option Nat} {m n k : Nat} (h : b.Safe cap m) (l : Nat) (hk : k < n) :
    (b.truncate l k).Safe cap n where
  canonical := Buf.truncate_wf l k h.canonical
  within p hp := h.within p (List.mem_filter.mp hp).1
  markBelow k' hk' := by
    simp only [Buf.truncate, Option.some.injEq] at hk'
    omega

theorem Buf.Safe.mono {b : Buf w} {cap : Option Nat} {m n : Nat} (h : b.Safe cap m) (hmn : m ≤ n) : b.Safe cap n where
  canonical := h.canonical
  within := h.within
  markBelow k hk := Nat.lt_of_lt_of_le (h.markBelow k hk) hmn

/-! A read by a span code. -/

theorem engineRead_ok {cfg : Config} {id : BufId} {b : Buf w} {i : Nat} {v : BitVec w} :
    engineRead cfg id b i = .ok v ↔ cellExists cfg id i = true ∧ b.read i = some v := by
  unfold engineRead
  split
  · next h =>
    cases hr : b.read i <;> simp [h]
  · next h => simp [h]

end Sys2Proof.Machine
end

