-- ==== Sys2Proof/Laws/Pack.lean ====
section
/-! SUPPORT. The packers and unpackers: lengths, cursors, and the bit strings. -/

namespace Sys2Proof.Machine

/-! Lengths and cursors. -/

@[simp] theorem stringBytes_length (m n : Nat) : (stringBytes m n).length = m := by
  simp [stringBytes]

@[simp] theorem packElements_length {w : Nat} (xs : List (BitVec w)) :
    (packElements xs).length = packedLen w xs.length := by
  simp [packElements]

theorem pack3Size_eq (n : Nat) : pack3Size n = packedLen 3 n := rfl

@[simp] theorem pack3_length (xs : List Span) : (pack3 xs).length = pack3Size xs.length := by
  simp [pack3, pack3Size_eq]

@[simp] theorem pack5_length (xs : List Ext) : (pack5 xs).length = packedLen 5 xs.length := by
  simp [pack5]

theorem takeElements_length (w str n : Nat) (r : PackRegs) : (takeElements w str n r).1.length = n := by
  induction n generalizing r with
  | zero => rfl
  | succ n ih => simp [takeElements, ih]

/-- After n elements the bit cursor has moved on by n widths. -/
theorem takeElements_regs (w str n : Nat) (r : PackRegs) :
    (takeElements w str n r).2 = { bc := r.bc + w * n, j := r.j + n } := by
  induction n generalizing r with
  | zero => simp [takeElements]
  | succ n ih =>
    simp only [takeElements, ih, PackRegs.mk.injEq]
    constructor
    · rw [Nat.mul_succ]
      omega
    · omega

/-- The element at index i is the w bits of the string at the cursor. -/
theorem takeElements_getElem (w str n : Nat) (r : PackRegs) (i : Nat) (h : i < (takeElements w str n r).1.length) :
    (takeElements w str n r).1[i] = BitVec.ofNat w (str >>> (r.bc + w * i)) := by
  induction n generalizing r i with
  | zero => simp [takeElements] at h
  | succ n ih =>
    cases i with
    | zero => simp [takeElements]
    | succ i =>
      simp only [takeElements, List.getElem_cons_succ]
      rw [ih, Nat.mul_succ]
      congr 2
      show r.bc + w + w * i = r.bc + (w * i + w)
      omega

@[simp] theorem unpackElements_length (w : Nat) (bs : List Byte) :
    (unpackElements w bs).1.length = unpackCount w bs.length :=
  takeElements_length _ _ _ _

@[simp] theorem unpack3_length (bs : List Byte) : (unpack3 bs).length = unpackCount 3 bs.length :=
  takeElements_length _ _ _ _

@[simp] theorem unpack5_length (bs : List Byte) : (unpack5 bs).length = unpackCount 5 bs.length :=
  takeElements_length _ _ _ _

theorem foldl_putElement {w : Nat} (xs : List (BitVec w)) (r : PackRegs) (str : Nat) :
    (xs.foldl putElement (r, str)).1 = { bc := r.bc + w * xs.length, j := r.j + xs.length } := by
  induction xs generalizing r str with
  | nil => simp
  | cons x xs ih =>
    simp only [List.foldl_cons, putElement, ih, List.length_cons, PackRegs.mk.injEq]
    constructor
    · rw [Nat.mul_succ]
      omega
    · omega

/-- The cursors after a whole sequence has been packed (10_state.md R33). -/
theorem packString_regs {w : Nat} (xs : List (BitVec w)) :
    (packString xs).1 = { bc := w * xs.length, j := xs.length } := by
  simp [packString, foldl_putElement, PackRegs.start]

/-! Bit strings. -/

/-- Bit p of the packed string: bit p mod w of element p div w, 0 above the last element. -/
theorem foldl_putElement_testBit {w : Nat} (hw : 0 < w) (xs : List (BitVec w)) (r : PackRegs) (str p : Nat) :
    (xs.foldl putElement (r, str)).2.testBit p =
      (str.testBit p || (decide (r.bc ≤ p) && (xs.getD ((p - r.bc) / w) 0).getLsbD ((p - r.bc) % w))) := by
  induction xs generalizing r str with
  | nil => simp
  | cons x xs ih =>
    simp only [List.foldl_cons, putElement, ih, Nat.testBit_or, Nat.testBit_shiftLeft]
    by_cases h1 : r.bc ≤ p
    · by_cases h2 : r.bc + w ≤ p
      · have e1 : (p - r.bc) / w = (p - (r.bc + w)) / w + 1 := by
          rw [show p - r.bc = (p - (r.bc + w)) + w by omega, Nat.add_div_right _ hw]
        have e2 : (p - r.bc) % w = (p - (r.bc + w)) % w := by
          rw [show p - r.bc = (p - (r.bc + w)) + w by omega, Nat.add_mod_right]
        have e3 : x.toNat.testBit (p - r.bc) = false :=
          Nat.testBit_lt_two_pow (Nat.lt_of_lt_of_le x.isLt (Nat.pow_le_pow_right (by omega) (by omega)))
        simp [h1, h2, e1, e2, e3]
      · have e1 : (p - r.bc) / w = 0 := Nat.div_eq_of_lt (by omega)
        have e2 : (p - r.bc) % w = p - r.bc := Nat.mod_eq_of_lt (by omega)
        simp [h1, h2, e1, e2, BitVec.testBit_toNat]
    · have h2 : ¬ r.bc + w ≤ p := by omega
      simp [h1, h2]

theorem packString_testBit {w : Nat} (hw : 0 < w) (xs : List (BitVec w)) (p : Nat) :
    (packString xs).2.testBit p = (xs.getD (p / w) 0).getLsbD (p % w) := by
  have := foldl_putElement_testBit hw xs PackRegs.start 0 p
  simpa [packString, PackRegs.start] using this

/-- Bit p of the string of a byte sequence: bit p mod 8 of byte p div 8 (00_scope.md R11). -/
theorem bytesString_testBit (bs : List Byte) (p : Nat) :
    (bytesString bs).testBit p = (bs.getD (p / 8) 0).getLsbD (p % 8) := by
  induction bs generalizing p with
  | nil => simp [bytesString]
  | cons b bs ih =>
    have hb := b.isLt
    rw [bytesString, show b.toNat + 256 * bytesString bs = 2 ^ 8 * bytesString bs + b.toNat by omega,
      Nat.testBit_two_pow_mul_add _ (by omega)]
    by_cases h : p < 8
    · simp [h, Nat.div_eq_of_lt h, Nat.mod_eq_of_lt h, BitVec.testBit_toNat]
    · have e1 : p / 8 = (p - 8) / 8 + 1 := by omega
      have e2 : p % 8 = (p - 8) % 8 := by omega
      simp only [h, if_false, ih, e1, e2, List.getD_cons_succ]

theorem stringBytes_getLsbD (m n i t : Nat) (hi : i < m) (ht : t < 8) :
    ((stringBytes m n).getD i 0).getLsbD t = n.testBit (8 * i + t) := by
  have : (stringBytes m n).getD i 0 = BitVec.ofNat 8 (n >>> (8 * i)) := by simp [stringBytes, hi]
  rw [this, BitVec.getLsbD_ofNat, Nat.testBit_shiftRight]
  simp [ht]

/-! Sizes. -/

/-- The bytes of m bytes' whole elements never exceed m bytes. -/
theorem packedLen_unpackCount (w m : Nat) : packedLen w (unpackCount w m) ≤ m := by
  have := Nat.mul_div_le (8 * m) w
  simp only [packedLen, unpackCount]
  omega

theorem packedLen5_le_pack5Size (n : Nat) : packedLen 5 n ≤ pack5Size n := by
  simp only [packedLen, pack5Size]
  omega

end Sys2Proof.Machine
end

