-- ==== Sys2Proof/Laws/Transform.lean ====
section
/-! SUPPORT. The transform: its cursors count what it has emitted, and the sizes of the frame. -/

namespace Sys2Proof.Machine

/-- The cursors into the two streams are their lengths (10_state.md R30: `S` and `X`). -/
structure Encoder.Counted (e : Encoder) : Prop where
  spans : e.regs.spanCount = e.spans.length
  exts : e.regs.extCount = e.exts.length

theorem Encoder.start_counted : Encoder.start.Counted := ⟨rfl, rfl⟩

/-- All that the emission of a distance can do: one literal code, or an escape and one extension (R134, R135). -/
theorem emitDistance_cases (d : Nat) (e : Encoder) :
    (d < 7 ∧ emitDistance d e =
      { e with spans := e.spans ++ [BitVec.ofNat 3 d], regs := { e.regs with spanCount := e.regs.spanCount + 1 } }) ∨
    (7 ≤ d ∧ emitDistance d e =
      { spans := e.spans ++ [7], exts := e.exts ++ [BitVec.ofNat 5 (d - 7)],
        regs := { e.regs with spanCount := e.regs.spanCount + 1, extCount := e.regs.extCount + 1 } }) := by
  unfold emitDistance setDistance esc
  by_cases h : 7 ≤ d
  · exact .inr ⟨h, by simp [h]⟩
  · exact .inl ⟨by omega, by simp [h]⟩

theorem emitDistance_counted (d : Nat) {e : Encoder} (h : e.Counted) : (emitDistance d e).Counted := by
  obtain ⟨h1, h2⟩ := h
  rcases emitDistance_cases d e with ⟨_, h⟩ | ⟨_, h⟩ <;> rw [h] <;> constructor <;> simp [h1, h2]

@[simp] theorem emitDistance_prev (d : Nat) (e : Encoder) : (emitDistance d e).regs.prev = e.regs.prev := by
  rcases emitDistance_cases d e with ⟨_, h⟩ | ⟨_, h⟩ <;> rw [h]

@[simp] theorem emitDistance_delta (d : Nat) (e : Encoder) : (emitDistance d e).regs.delta = e.regs.delta := by
  rcases emitDistance_cases d e with ⟨_, h⟩ | ⟨_, h⟩ <;> rw [h]

@[simp] theorem emitDistance_last (d : Nat) (e : Encoder) : (emitDistance d e).regs.last = e.regs.last := by
  rcases emitDistance_cases d e with ⟨_, h⟩ | ⟨_, h⟩ <;> rw [h]

@[simp] theorem emitDistance_wp (d : Nat) (e : Encoder) : (emitDistance d e).regs.wp = e.regs.wp := by
  rcases emitDistance_cases d e with ⟨_, h⟩ | ⟨_, h⟩ <;> rw [h]

theorem examine_counted {e : Encoder} (h : e.Counted) (pos : Nat) : (examine e pos).Counted := by
  unfold examine
  split
  · exact emitDistance_counted _ ⟨h.spans, h.exts⟩
  · exact ⟨h.spans, h.exts⟩

@[simp] theorem examine_prev (e : Encoder) (pos : Nat) : (examine e pos).regs.prev = e.regs.prev := by
  unfold examine
  split <;> simp

@[simp] theorem examine_delta (e : Encoder) (pos : Nat) : (examine e pos).regs.delta = e.regs.delta := by
  unfold examine
  split <;> simp

@[simp] theorem examine_wp (e : Encoder) (pos : Nat) : (examine e pos).regs.wp = e.regs.wp := by
  unfold examine
  split <;> simp

/-- The last set position follows the scan (R133). -/
theorem examine_last (e : Encoder) (pos : Nat) :
    (examine e pos).regs.last = if e.regs.delta.getLsbD (pos - 1) then pos else e.regs.last := by
  unfold examine
  split <;> simp

theorem foldl_examine_counted (ps : List Nat) {e : Encoder} (h : e.Counted) : (ps.foldl examine e).Counted := by
  induction ps generalizing e with
  | nil => exact h
  | cons p ps ih => exact ih (examine_counted h p)

@[simp] theorem foldl_examine_prev (ps : List Nat) (e : Encoder) :
    (ps.foldl examine e).regs.prev = e.regs.prev := by
  induction ps generalizing e with
  | nil => rfl
  | cons p ps ih => simp [ih]

@[simp] theorem foldl_examine_wp (ps : List Nat) (e : Encoder) : (ps.foldl examine e).regs.wp = e.regs.wp := by
  induction ps generalizing e with
  | nil => rfl
  | cons p ps ih => simp [ih]

theorem encodeWord_counted {e : Encoder} (h : e.Counted) (s : Word) : (encodeWord e s).Counted := by
  have := foldl_examine_counted positions (e := startDelta e s) ⟨h.spans, h.exts⟩
  unfold encodeWord emitTerminator
  constructor <;> simp [this.spans, this.exts]

@[simp] theorem encodeWord_prev (e : Encoder) (s : Word) : (encodeWord e s).regs.prev = s := by
  simp [encodeWord, emitTerminator, startDelta]

@[simp] theorem encodeWord_wp (e : Encoder) (s : Word) : (encodeWord e s).regs.wp = e.regs.wp + 1 := by
  simp [encodeWord, emitTerminator, startDelta]

theorem foldl_encodeWord_counted (ws : List Word) {e : Encoder} (h : e.Counted) :
    (ws.foldl encodeWord e).Counted := by
  induction ws generalizing e with
  | nil => exact h
  | cons w ws ih => exact ih (encodeWord_counted h w)

/-- After the transform the cursors are the lengths of the streams. -/
theorem runTransform_counted (ws : List Word) : (runTransform ws).Counted :=
  foldl_encodeWord_counted ws Encoder.start_counted

theorem foldl_encodeWord_wp (ws : List Word) (e : Encoder) :
    (ws.foldl encodeWord e).regs.wp = e.regs.wp + ws.length := by
  induction ws generalizing e with
  | nil => rfl
  | cons w ws ih =>
    simp only [List.foldl_cons, ih, encodeWord_wp, List.length_cons]
    omega

/-! The frame. -/

@[simp] theorem be24_length (n : BitVec 24) : (be24 n).length = 3 := rfl

@[simp] theorem frameHeader_length (a : Byte) (c : BitVec 24) : (frameHeader a c).length = 4 := rfl

theorem frameOf_length (a : Byte) (c : BitVec 24) (spans : List Span) (exts : List Ext) :
    (frameOf a c spans exts).length = frameLength spans.length exts.length := by
  simp only [frameOf, frameLength, hdrBytes, List.length_append, frameHeader_length, pack3_length, pack5_length, pack3Size_eq]
  omega

/-- The header reads back (41_span_decoder.md R152). -/
theorem headerAlgo_frameHeader (a : Byte) (c : BitVec 24) : headerAlgo (frameHeader a c) = a := rfl

theorem headerCount_frameHeader (a : Byte) (c : BitVec 24) : headerCount (frameHeader a c) = c := by
  apply BitVec.eq_of_toNat_eq
  simp only [headerCount, frameHeader, be24, List.getD_cons_succ, List.getD_cons_zero]
  have := c.isLt
  simp only [BitVec.toNat_append, BitVec.extractLsb'_toNat, Nat.shiftRight_eq_div_pow, Nat.shiftLeft_eq]
  have e1 : ∀ x y : Nat, y < 2 ^ 8 → x * 2 ^ 8 ||| y = x * 2 ^ 8 + y := by
    intro x y h
    rw [← Nat.shiftLeft_eq, Nat.shiftLeft_add_eq_or_of_lt h]
  have e2 : ∀ x y : Nat, y < 2 ^ 16 → x * 2 ^ (8 + 8) ||| y = x * 2 ^ (8 + 8) + y := by
    intro x y h
    rw [← Nat.shiftLeft_eq, Nat.shiftLeft_add_eq_or_of_lt (by simpa using h)]
  rw [e1 _ _ (by omega), e2 _ _ (by omega)]
  omega

end Sys2Proof.Machine
end

