-- ==== Sys2Proof/Laws/Commands.lean ====
section
/-! SUPPORT. What each meaning and each shared operation under it can do, said once: if it answers a next state, then one of
these cases holds. -/

namespace Sys2Proof.Machine

/-! Span codes. -/

/-- All that `advance` can do (41_span_decoder.md R159, R160). -/
theorem advance_cases (d : Nat) (s : State) :
    (s.dec.bo + d ≤ 32 ∧ advance d s =
      { s with dec := { s.dec with bo := s.dec.bo + d, fp := setPosition s.dec.fp (s.dec.bo + d) } }) ∨
    (32 < s.dec.bo + d ∧ advance d s =
      stopDecode .unspecifiedBitOffset { s with dec := { s.dec with bo := s.dec.bo + d } }) := by
  unfold advance wordW
  by_cases h : 32 < s.dec.bo + d
  · exact .inr ⟨h, by simp [h]⟩
  · exact .inl ⟨by omega, by simp [h]⟩

/-- All that `T` can do (R162). -/
theorem execT_cases {s t : State} (h : execT s = .next t) :
    cellExists s.cfg .wbuf s.dec.wp = true ∧ t =
      { s with
        wbuf := s.wbuf.write s.dec.wp (s.dec.fp ^^^ s.dec.fpPrev)
        dec := { s.dec with wp := s.dec.wp + 1, fpPrev := s.dec.fp ^^^ s.dec.fpPrev, fp := 0, bo := 0 } } := by
  unfold execT at h
  split at h
  · next hc => exact ⟨hc, (Host.Outcome.next.inj h).symm⟩
  · cases h

/-- All that `X` can do (R164). -/
theorem execX_cases {s t : State} (h : execX s = .next t) :
    ∃ e, engineRead s.cfg .e5buf s.e5buf s.dec.xp = .ok e ∧
      t = advance (7 + e.toNat) { s with dec := { s.dec with xp := s.dec.xp + 1 } } := by
  unfold execX at h
  split at h
  · next e he => exact ⟨e, he, (Host.Outcome.next.inj h).symm⟩
  · cases h

/-! The replay. -/

/-- One look of the scan (R155). -/
theorem scan_cons (count : Nat) (c : Span) (cs : List Span) (r : DecRegs) :
    scan count (c :: cs) r = if r.tc < count then scan count cs (lookAt r c) else r := rfl

/-- All that one turn of the replay can do: it has ended, or it fetches one code, runs it, and goes on (R158, R161). -/
theorem replay_cases {n : Nat} {s t : State} (h : replay (n + 1) s = .next t) :
    (¬ (s.replaying = true ∧ s.dec.sp < s.dec.spanLength) ∧ t = s) ∨
    (∃ c u, (s.replaying = true ∧ s.dec.sp < s.dec.spanLength) ∧
      engineRead s.cfg .e3buf s.e3buf s.dec.sp = .ok c ∧
      execSpanCode c { s with dec := { s.dec with sp := s.dec.sp + 1 } } = .next u ∧ replay n u = .next t) := by
  simp only [replay] at h
  split at h
  · next hr =>
    split at h
    · cases h
    · next c hc =>
      split at h
      · next u hu => exact .inr ⟨c, u, hr, hc, hu, h⟩
      · cases h
      · cases h
  · next hr => exact .inl ⟨hr, (Host.Outcome.next.inj h).symm⟩

/-- All that the end of the replay can do (R165, R166). -/
theorem finishDecode_cases (a : Byte) (c : BitVec 24) (s : State) :
    (s.dec.fp ≠ 0 ∧ finishDecode a c s = stopDecode (.error .incompleteStride) s) ∨
    (s.dec.fp = 0 ∧ finishDecode a c s = endCommand .ok
      { s with
        algo := a
        count := c
        wlen := c
        e3len := s.dec.spanLength
        e5len := s.dec.available
        wbuf := s.wbuf.truncate c.toNat s.freeCount
        e3buf := s.e3buf.truncate s.dec.spanLength s.freeCount }) := by
  unfold finishDecode
  by_cases h : s.dec.fp = 0
  · exact .inr ⟨h, if_neg (not_not_intro h)⟩
  · exact .inl ⟨h, if_pos h⟩

/-! Commands. -/

/-- All that `ENCODE` can do (40_span_encoder.md R143, R144). -/
theorem execEncode_cases {s t : State} (h : execEncode s = .next t) :
    (exceeds s.wlen.toNat (capacity s.cfg .wbuf) = true ∧ t = refuseEncode s) ∨
    (∃ ws, s.wbuf.readFrom 0 s.wlen.toNat = .ok ws ∧ t = encodeFinish (runTransform ws) s) := by
  unfold execEncode at h
  split at h
  · next hc => exact .inl ⟨hc, (Host.Outcome.next.inj h).symm⟩
  · split at h
    · cases h
    · next ws hws => exact .inr ⟨ws, hws, (Host.Outcome.next.inj h).symm⟩

/-- All that the end of `ENCODE` can do: a refusal, or a frame that fits with its reserve (R143). -/
theorem encodeFinish_cases (e : Encoder) (s : State) :
    encodeFinish e s = refuseEncode { s with enc := e.regs } ∨
    (exceeds e.regs.spanCount s.cfg.e3cap = false ∧ exceeds e.regs.extCount s.cfg.e5cap = false ∧
      exceeds (reservedSize e.regs.spanCount e.regs.extCount) s.cfg.bcap = false ∧
      encodeFinish e s = storeFrame e s) := by
  unfold encodeFinish
  split
  · exact .inl rfl
  · next h =>
    simp only [Bool.or_eq_true, not_or, Bool.not_eq_true] at h
    exact .inr ⟨h.1.1, h.1.2, h.2, rfl⟩

/-- All that `PACK3` can do (42_pack3.md R196). -/
theorem execPack3_cases {s t : State} (h : execPack3 s = .next t) :
    t = refusePack s ∨
    (∃ xs, s.e3buf.readFrom 0 s.e3len = .ok xs ∧ exceeds (pack3Size s.e3len) s.cfg.bcap = false ∧
      t = storePacked (pack3 xs) (packString xs).1 (pack3Size s.e3len) s) := by
  unfold execPack3 at h
  split at h
  · exact .inl (Host.Outcome.next.inj h).symm
  · next hc =>
    simp only [Bool.or_eq_true, not_or, Bool.not_eq_true] at hc
    split at h
    · cases h
    · next xs hxs => exact .inr ⟨xs, hxs, hc.2, (Host.Outcome.next.inj h).symm⟩

/-- All that `PACK5` can do (43_pack5.md R217). -/
theorem execPack5_cases {s t : State} (h : execPack5 s = .next t) :
    t = refusePack s ∨
    (∃ xs, s.e5buf.readFrom 0 s.e5len = .ok xs ∧ exceeds (pack5Size s.e5len) s.cfg.bcap = false ∧
      t = storePacked (pack5 xs) (packString xs).1 (pack5Size s.e5len) s) := by
  unfold execPack5 at h
  split at h
  · exact .inl (Host.Outcome.next.inj h).symm
  · next hc =>
    simp only [Bool.or_eq_true, not_or, Bool.not_eq_true] at hc
    split at h
    · cases h
    · next xs hxs => exact .inr ⟨xs, hxs, hc.2, (Host.Outcome.next.inj h).symm⟩

/-- All that `UNPACK3` can do (42_pack3.md R197). -/
theorem execUnpack3_cases {s t : State} (h : execUnpack3 s = .next t) :
    t = refuseUnpack3 s ∨
    (∃ bs, s.bbuf.readFrom 0 s.blen = .ok bs ∧ exceeds (unpackCount 3 s.blen) s.cfg.e3cap = false ∧
      t = endCommand .ok
        { s with
          e3buf := Buf.ofSeq s.freeCount (unpack3 bs)
          e3len := unpackCount 3 s.blen
          pack := (unpackElements 3 bs).2 }) := by
  unfold execUnpack3 at h
  split at h
  · exact .inl (Host.Outcome.next.inj h).symm
  · next hc =>
    simp only [Bool.or_eq_true, not_or, Bool.not_eq_true] at hc
    split at h
    · cases h
    · next bs hbs => exact .inr ⟨bs, hbs, hc.2, (Host.Outcome.next.inj h).symm⟩

/-- All that `UNPACK5` can do (43_pack5.md R218). -/
theorem execUnpack5_cases {s t : State} (h : execUnpack5 s = .next t) :
    t = refuseUnpack5 s ∨
    (∃ bs, s.bbuf.readFrom 0 s.blen = .ok bs ∧ exceeds (unpackCount 5 s.blen) s.cfg.e5cap = false ∧
      t = endCommand .ok
        { s with
          e5buf := Buf.ofSeq s.freeCount (unpack5 bs)
          e5len := unpackCount 5 s.blen
          pack := (unpackElements 5 bs).2 }) := by
  unfold execUnpack5 at h
  split at h
  · exact .inl (Host.Outcome.next.inj h).symm
  · next hc =>
    simp only [Bool.or_eq_true, not_or, Bool.not_eq_true] at hc
    split at h
    · cases h
    · next bs hbs => exact .inr ⟨bs, hbs, hc.2, (Host.Outcome.next.inj h).symm⟩

/-- All that `DECODE` can do up to the header (41_span_decoder.md R151, R152). -/
theorem execDecode_cases {s t : State} (h : execDecode s = .next t) :
    t = stopDecode .refusedCapacity s ∨ t = stopDecode (.error .inputTooShort) s ∨
    (∃ header, exceeds s.blen s.cfg.bcap = false ∧ 4 ≤ s.blen ∧ s.bbuf.readFrom 0 4 = .ok header ∧
      decodeHeader header s = .next t) := by
  unfold execDecode hdrBytes at h
  split at h
  · exact .inl (Host.Outcome.next.inj h).symm
  · next hc =>
    split at h
    · exact .inr (.inl (Host.Outcome.next.inj h).symm)
    · next hl =>
      split at h
      · cases h
      · next header hh => exact .inr (.inr ⟨header, by simpa using hc, by omega, hh, h⟩)

/-- All that `DECODE` can do with a header (R153, R154). -/
theorem decodeHeader_cases {header : List Byte} {s t : State} (h : decodeHeader header s = .next t) :
    t = stopDecode (.error .unexpectedEndOfData) s ∨ t = stopDecode .refusedCapacity s ∨
    (∃ body, exceeds (unpackCount 3 (s.blen - 4)) s.cfg.e3cap = false ∧
      s.bbuf.readFrom 4 (s.blen - 4) = .ok body ∧
      decodeSpans (headerAlgo header) (headerCount header) body s = .next t) := by
  unfold decodeHeader hdrBytes at h
  split at h
  · exact .inl (Host.Outcome.next.inj h).symm
  · split at h
    · exact .inr (.inl (Host.Outcome.next.inj h).symm)
    · next hc =>
      split at h
      · cases h
      · next body hb => exact .inr (.inr ⟨body, by simpa using hc, hb, h⟩)

/-- All that `DECODE` can do with the bytes after the span stream (R157, R158). -/
theorem decodeExtensions_cases {a : Byte} {c : BitVec 24} {tail : List Byte} {s t : State}
    (h : decodeExtensions a c tail s = .next t) :
    t = stopDecode .refusedCapacity s ∨
    (unpackCount 5 tail.length < s.dec.sc ∧
      t = stopDecode (.error (.missingExtension s.dec.sc (unpackCount 5 tail.length))) s) ∨
    (exceeds (unpackCount 5 tail.length) s.cfg.e5cap = false ∧ s.dec.sc ≤ unpackCount 5 tail.length ∧
      exceeds c.toNat (capacity s.cfg .wbuf) = false ∧
      runReplay a c
        { s with
          e5buf := Buf.ofSeq s.freeCount (unpack5 tail)
          pack := (unpackElements 5 tail).2
          dec := { s.dec with available := unpackCount 5 tail.length } } = .next t) := by
  unfold decodeExtensions at h
  split at h
  · exact .inl (Host.Outcome.next.inj h).symm
  · next h5 =>
    split at h
    · next hm => exact .inr (.inl ⟨hm, (Host.Outcome.next.inj h).symm⟩)
    · next hm =>
      split at h
      · exact .inl (Host.Outcome.next.inj h).symm
      · next hw => exact .inr (.inr ⟨by simpa using h5, by omega, by simpa using hw, h⟩)

/-- All that the replay and the end of `DECODE` can do: a span code ended the command, or the end did (R158, R165, R166). -/
theorem runReplay_cases {a : Byte} {c : BitVec 24} {s t : State} (h : runReplay a c s = .next t) :
    ∃ u, replay s.dec.spanLength
        { s with replaying := true, dec := { s.dec with bo := 0, fp := 0, fpPrev := 0, sp := 0, xp := 0, wp := 0 } } =
          .next u ∧
      ((u.replaying = true ∧ t = finishDecode a c u) ∨ (u.replaying = false ∧ t = u)) := by
  unfold runReplay at h
  split at h
  · next u hu =>
    split at h
    · next hr => exact ⟨u, hu, .inl ⟨hr, (Host.Outcome.next.inj h).symm⟩⟩
    · next hr => exact ⟨u, hu, .inr ⟨by simpa using hr, (Host.Outcome.next.inj h).symm⟩⟩
  · cases h
  · cases h

end Sys2Proof.Machine
end

