-- ==== Sys2Proof/Laws/PerInstr.lean ====
section
/-! SUPPORT. Facts about every instruction, one lemma per constructor. -/

namespace Sys2Proof.Laws

/-- The word of an instruction decodes, in its own format, to the instruction (30_encoding.md R96, R104, R105). -/
def WordRoundTrip.Statement (i : Instr) : Prop :=
  decodeWord i.format (encode i) = i

theorem WordRoundTrip.t : WordRoundTrip.Statement .t := rfl
theorem WordRoundTrip.d1 : WordRoundTrip.Statement .d1 := rfl
theorem WordRoundTrip.d2 : WordRoundTrip.Statement .d2 := rfl
theorem WordRoundTrip.d3 : WordRoundTrip.Statement .d3 := rfl
theorem WordRoundTrip.d4 : WordRoundTrip.Statement .d4 := rfl
theorem WordRoundTrip.d5 : WordRoundTrip.Statement .d5 := rfl
theorem WordRoundTrip.d6 : WordRoundTrip.Statement .d6 := rfl
theorem WordRoundTrip.x : WordRoundTrip.Statement .x := rfl
theorem WordRoundTrip.encode : WordRoundTrip.Statement .encode := rfl
theorem WordRoundTrip.decode : WordRoundTrip.Statement .decode := rfl
theorem WordRoundTrip.pack3 : WordRoundTrip.Statement .pack3 := rfl
theorem WordRoundTrip.unpack3 : WordRoundTrip.Statement .unpack3 := rfl
theorem WordRoundTrip.pack5 : WordRoundTrip.Statement .pack5 := rfl
theorem WordRoundTrip.unpack5 : WordRoundTrip.Statement .unpack5 := rfl
theorem WordRoundTrip.reserved0 : WordRoundTrip.Statement .reserved0 := rfl
theorem WordRoundTrip.reserved7 : WordRoundTrip.Statement .reserved7 := rfl

end Sys2Proof.Laws
end

