-- ==== Sys2Proof/Laws/Step.lean ====
section
/-! SUPPORT. What one step can do, said once. -/

namespace Sys2Proof.Machine

/-- All that the fetch can find (10_state.md R23, 30_encoding.md R104). -/
theorem fetch_cases (s : State) :
    (s.input = [] ∧ fetch s = .idle) ∨
    (∃ v rest, s.input = .writeReg .cmd v :: rest ∧
      ((∃ i, decodeNat .cmd v = .ok i ∧ fetch s = .instruction i { s with input := rest }) ∨
        fetch s = .rejected (.registerValueTooWide .cmd v))) ∨
    (∃ act rest, s.input = act :: rest ∧ fetch s = .access act { s with input := rest }) := by
  unfold fetch
  split
  · next h => exact .inl ⟨h, rfl⟩
  · next v rest h =>
    refine .inr (.inl ⟨v, rest, h, ?_⟩)
    split
    · next i hi => exact .inl ⟨i, hi, rfl⟩
    · exact .inr rfl
  · next act rest _ h => exact .inr (.inr ⟨act, rest, h, rfl⟩)

/-- All that a step can do when it answers a next state: nothing, one instruction, or one access of the host. -/
theorem step_cases {s t : State} (h : step s = .next t) :
    s.replaying = false ∧
    ((s.input = [] ∧ t = s) ∨
      (∃ i rest, exec i { s with input := rest } = .next t) ∨
      (∃ act rest, s.input = act :: rest ∧ hostAccess act { s with input := rest } = .next t)) := by
  unfold step at h
  split at h
  · cases h
  · next hr =>
    refine ⟨by simpa using hr, ?_⟩
    rcases fetch_cases s with ⟨hi, hf⟩ | ⟨v, rest, hi, ⟨i, _, hf⟩ | hf⟩ | ⟨act, rest, hi, hf⟩ <;> rw [hf] at h
    · exact .inl ⟨hi, (Host.Outcome.next.inj h).symm⟩
    · exact .inr (.inl ⟨i, rest, h⟩)
    · cases h
    · exact .inr (.inr ⟨act, rest, hi, h⟩)

/-- All that a host write of a register can do: nothing, or one of the five registers takes the value (10_state.md R23). -/
theorem writeRegister_cases {r : Reg} {v : Nat} {s t : State} (h : writeRegister r v s = .next t) :
    t = s ∨ (v < 256 ∧ t = { s with algo := BitVec.ofNat 8 v }) ∨
    (v < countRange ∧ t = { s with wlen := BitVec.ofNat 24 v }) ∨
    t = { s with blen := v } ∨ t = { s with e3len := v } ∨ t = { s with e5len := v } := by
  cases r
  case algo =>
    by_cases hv : v < 256
    · simp only [writeRegister, hv, if_true, Host.Outcome.next.injEq] at h
      exact .inr (.inl ⟨hv, h.symm⟩)
    · simp [writeRegister, hv] at h
  case wlen =>
    by_cases hv : v < countRange
    · simp only [writeRegister, hv, if_true, Host.Outcome.next.injEq] at h
      exact .inr (.inr (.inl ⟨hv, h.symm⟩))
    · simp [writeRegister, hv] at h
  all_goals
    simp only [writeRegister, Host.Outcome.next.injEq] at h
    simp [← h]

/-- All that a host write of a cell can do (10_state.md R24). -/
theorem writeCell_cases {b : BufId} {i v : Nat} {s t : State} (h : writeCell b i v s = .next t) :
    cellExists s.cfg b i = true ∧ v < 2 ^ cellWidth b ∧ t = putCell b i v s := by
  unfold writeCell at h
  split at h
  · next hc =>
    split at h
    · next hv => exact ⟨hc, hv, (Host.Outcome.next.inj h).symm⟩
    · cases h
  · cases h

/-- All that a host read of a cell can do (10_state.md R24, R27). -/
theorem readCell_cases {b : BufId} {i : Nat} {s t : State} (h : readCell b i s = .next t) :
    cellExists s.cfg b i = true ∧ ∃ v, cellValue b i s = some v ∧ t = { s with readData := some v } := by
  unfold readCell at h
  split at h
  · next hc =>
    split at h
    · next v hv => exact ⟨hc, v, hv, (Host.Outcome.next.inj h).symm⟩
    · cases h
  · cases h

end Sys2Proof.Machine
end

