-- ==== Sys2Proof/Tests/Slice0.lean ====
section
/-! SUPPORT. Tests of one step or one function, their expected values from 95_test_vectors.md (the vector's id stands beside
each), and for every statement with hypotheses a witness that meets them all. -/

namespace Sys2Proof.Tests

open Sys2Proof Sys2Proof.Machine

/-- A buffer the host has written `xs` into from cell 0. -/
def seqBuf {w : Nat} (xs : List (BitVec w)) : Buf w :=
  { cells := numberFrom 0 xs, rest := none }

theorem seqBuf_holds {w : Nat} (xs : List (BitVec w)) : (seqBuf xs).Holds xs := by
  intro i h
  have : lookupCell (numberFrom 0 xs) i = some xs[i] := by simp [lookupCell_numberFrom, h]
  simp [Buf.read, seqBuf, this]

/-- The reset state with given `dec` registers. -/
def atBo (bo : Nat) (fp : Word) : State :=
  { State.reset with dec := { DecRegs.start with bo := bo, fp := fp } }

/-- The reset state with words to encode. -/
def withWords (ws : List Word) (algo : Byte) : State :=
  { State.reset with wbuf := seqBuf ws, wlen := BitVec.ofNat 24 ws.length, algo := algo }

/-- The reset state with bytes to decode or unpack. -/
def withBytes (bs : List Byte) : State :=
  { State.reset with bbuf := seqBuf bs, blen := bs.length }

/-- The reset state with spans to pack. -/
def withSpans (xs : List Span) : State :=
  { State.reset with e3buf := seqBuf xs, e3len := xs.length }

/-- The reset state with extensions to pack. -/
def withExts (xs : List Ext) : State :=
  { State.reset with e5buf := seqBuf xs, e5len := xs.length }

/-- The reset state in which the host is about to do one thing. -/
def about (act : HostAct) : State :=
  { State.reset with input := [act] }

/-- One observation of the next state. -/
def seen {α : Type} (o : Host.Outcome State Fault Refusal) (f : State → α) : Option α :=
  match o with
  | .next t => some (f t)
  | .fault _ => none
  | .refused _ => none

/-- The first n cells of a buffer. -/
def cells {w : Nat} (b : Buf w) (n : Nat) : List (BitVec w) :=
  (b.cells.filter (fun p => decide (p.1 < n))).map Prod.snd

/-! Well-formedness: an ill-formed term for each check. -/

theorem test_command_is_no_span : Instr.wellFormed .span3 .encode = false := by decide
theorem test_reserved_is_no_span : Instr.wellFormed .span3 .reserved7 = false := by decide
theorem test_span_is_no_command : Instr.wellFormed .cmd .t = false := by decide
theorem test_program_with_command_refused : spanProgram [.d1, .decode, .t] = false := by decide
theorem test_program_accepted : spanProgram [.d1, .x, .t] = true := by decide

/-! Every constructor's word, written out from the tables of 30_encoding.md R96, R104, R105. -/

theorem test_word_t : decodeBytes .span3 [0b00000000#8] = .ok (.t, []) := rfl
theorem test_word_d1 : decodeBytes .span3 [0b00000001#8] = .ok (.d1, []) := rfl
theorem test_word_d2 : decodeBytes .span3 [0b00000010#8] = .ok (.d2, []) := rfl
theorem test_word_d3 : decodeBytes .span3 [0b00000011#8] = .ok (.d3, []) := rfl
theorem test_word_d4 : decodeBytes .span3 [0b00000100#8] = .ok (.d4, []) := rfl
theorem test_word_d5 : decodeBytes .span3 [0b00000101#8] = .ok (.d5, []) := rfl
theorem test_word_d6 : decodeBytes .span3 [0b00000110#8] = .ok (.d6, []) := rfl
theorem test_word_x : decodeBytes .span3 [0b00000111#8] = .ok (.x, []) := rfl
theorem test_word_reserved0 : decodeBytes .cmd [0b00000000#8] = .ok (.reserved0, []) := rfl
theorem test_word_encode : decodeBytes .cmd [0b00000001#8] = .ok (.encode, []) := rfl
theorem test_word_decode : decodeBytes .cmd [0b00000010#8] = .ok (.decode, []) := rfl
theorem test_word_pack3 : decodeBytes .cmd [0b00000011#8] = .ok (.pack3, []) := rfl
theorem test_word_unpack3 : decodeBytes .cmd [0b00000100#8] = .ok (.unpack3, []) := rfl
theorem test_word_pack5 : decodeBytes .cmd [0b00000101#8] = .ok (.pack5, []) := rfl
theorem test_word_unpack5 : decodeBytes .cmd [0b00000110#8] = .ok (.unpack5, []) := rfl
theorem test_word_reserved7 : decodeBytes .cmd [0b00000111#8, 0x55#8] = .ok (.reserved7, [0x55#8]) := rfl
theorem test_word_too_wide : decodeBytes .cmd [0b00001001#8] = .error (.tooWide 9) := rfl
theorem test_no_bytes : decodeBytes .span3 [] = .error .noBytes := rfl
theorem test_table_word : decodeTableWord 8 2 = some .decode := by decide
theorem test_table_word_too_wide : decodeTableWord 8 0x0A = none := by decide
theorem test_fetch_word_runs : step (State.reset.withFetchWord 8 2) = exec .decode State.reset := rfl

/-! Functions: packers (VP1, VP9, VU3, VQ1, VQ9, VW6), sizes, the transform (VE15, VE16), the frame (VE5). -/

theorem test_pack3_VP1 : pack3 [0, 1, 2, 3, 4, 5, 6, 7] = [0x88, 0xC6, 0xFA] := by decide
theorem test_pack3_VP9 : pack3 [7, 6, 5, 4, 3, 2, 1, 0, 7] = [0x77, 0x39, 0x05, 0x07] := by decide
theorem test_unpack3_VU3 : unpack3 [0xC1] = [1, 0] := by decide
theorem test_pack5_VQ1 : pack5 [0, 1, 2, 3, 4, 5, 6, 7] = [0x20, 0x88, 0x41, 0x8A, 0x39] := by decide
theorem test_pack5_VQ9 : pack5 [16, 8, 4, 2, 1, 31, 0, 21, 10] = [0x10, 0x11, 0x11, 0x3E, 0xA8, 0x0A] := by decide
theorem test_unpack5_VW6 : unpack5 [0x00, 0xFF] = [0, 24, 31] := by decide
theorem test_pack5Size_S11 : [0, 8, 16].map pack5Size = [5, 10, 15] := by decide
theorem test_transform_VE15 :
    transform [0x12345678, 0x12345679, 0x92345679, 0x92345679] =
      ([4, 1, 1, 1, 3, 1, 2, 2, 4, 2, 1, 4, 3, 0, 1, 0, 7, 0, 0], [25]) := by decide +kernel
theorem test_transform_VE16 : transform [0x01010101] = ([1, 7, 7, 7, 0], [1, 1, 1]) := by decide +kernel
theorem test_compress_VE5 : compress [1, 1] 0x01 = [0x01, 0x00, 0x00, 0x02, 0x01, 0x00] := by decide +kernel

/-! Span codes (VC1 to VC18): one ordinary case and the edge where the command stops. -/

theorem test_t_VC18 :
    seen (exec .t { State.reset with dec := { DecRegs.start with fp := 0x40, fpPrev := 1, wp := 1, bo := 7 } })
      (fun t => (t.wbuf.read 1, t.dec.fpPrev, t.dec.fp, t.dec.bo, t.dec.wp)) =
      some (some 0x41, 0x41, 0, 0, 2) := by decide
theorem test_t_without_cell :
    exec .t { State.reset with dec := { DecRegs.start with wp := 16777215 } } = .fault (.noSuchCell .wbuf 16777215) := rfl
theorem test_d1_VC2 :
    seen (exec .d1 (atBo 31 0x40000000)) (fun t => (t.dec.bo, t.dec.fp)) = some (32, 0xC0000000) := by decide
theorem test_d1_VC3 : seen (exec .d1 (atBo 32 0)) (fun t => (t.status.code, t.wlen)) = some (6, 0) := by decide
theorem test_d2_VC4 : seen (exec .d2 (atBo 1 1)) (fun t => (t.dec.bo, t.dec.fp)) = some (3, 5) := by decide
theorem test_d2_VC5 : seen (exec .d2 (atBo 31 0)) (fun t => t.status) = some .unspecifiedBitOffset := by decide
theorem test_d3_VC6 : seen (exec .d3 (atBo 0 0)) (fun t => (t.dec.bo, t.dec.fp)) = some (3, 4) := by decide
theorem test_d3_stops : seen (exec .d3 (atBo 30 0)) (fun t => t.status) = some .unspecifiedBitOffset := by decide
theorem test_d4_VC7 : seen (exec .d4 (atBo 4 8)) (fun t => (t.dec.bo, t.dec.fp)) = some (8, 0x88) := by decide
theorem test_d4_stops : seen (exec .d4 (atBo 29 0)) (fun t => t.status) = some .unspecifiedBitOffset := by decide
theorem test_d5_VC8 : seen (exec .d5 (atBo 0 0)) (fun t => (t.dec.bo, t.dec.fp)) = some (5, 0x10) := by decide
theorem test_d5_stops : seen (exec .d5 (atBo 28 0)) (fun t => t.status) = some .unspecifiedBitOffset := by decide
theorem test_d6_VC9 :
    seen (exec .d6 (atBo 26 0x02000000)) (fun t => (t.dec.bo, t.dec.fp)) = some (32, 0x82000000) := by decide
theorem test_d6_VC10 : seen (exec .d6 (atBo 27 0)) (fun t => t.status) = some .unspecifiedBitOffset := by decide
theorem test_x_VC13 :
    seen (exec .x { withExts [0, 0, 0, 25] with dec := { DecRegs.start with xp := 3 } })
      (fun t => (t.dec.bo, t.dec.fp, t.dec.xp)) = some (32, 0x80000000, 4) := by decide
theorem test_x_VC14 : seen (exec .x (withExts [26])) (fun t => t.status) = some .unspecifiedBitOffset := by decide

/-! Commands: one ordinary vector and one refusal or error each. -/

theorem test_encode_VE11 :
    seen (exec .encode (withWords [0x80000001] 0x01)) (fun t => (t.status, cells t.bbuf t.blen, t.cap, t.count)) =
      some (.ok, [0x01, 0x00, 0x00, 0x01, 0x39, 0x00, 0x18], 11, 1) := by decide +kernel
theorem test_encode_VE31 :
    seen (exec .encode { State.reset with cfg := { Config.unbounded with bcap := some 8 } }) (fun t => t.status) =
      some .refusedCapacity := by decide
theorem test_decode_VD34 :
    seen (exec .decode (withBytes [0x02, 0x00, 0x00, 0x03, 0x81, 0x70, 0x00, 0x19]))
      (fun t => (t.status, t.algo, cells t.wbuf t.wlen.toNat, t.e3len, t.e5len)) =
      some (.ok, 0x02, [0x00000001, 0x00000003, 0x80000003], 6, 1) := by decide +kernel
theorem test_decode_VD30 :
    seen (exec .decode (withBytes [0xAB, 0x00, 0x00, 0x02, 0x3F, 0x00, 0x20]))
      (fun t => (t.status.code, t.errExpected, t.errActual, t.wlen)) = some (4, 2, 1, 0) := by decide +kernel
theorem test_pack3_VP20 :
    seen (exec .pack3 (withSpans [1, 2, 3])) (fun t => (t.status, cells t.bbuf 2, t.blen, t.cap)) =
      some (.ok, [0xD1, 0x00], 2, 2) := by decide
theorem test_pack3_VP25 :
    seen (exec .pack3 { withSpans [1, 2, 3] with cfg := { Config.unbounded with bcap := some 1 } })
      (fun t => t.status.code) = some 7 := by decide
theorem test_unpack3_VP22 :
    seen (exec .unpack3 (withBytes [0xD1, 0x00])) (fun t => (t.status, cells t.e3buf 5, t.e3len)) =
      some (.ok, [1, 2, 3, 0, 0], 5) := by decide
theorem test_unpack3_VP24 :
    seen (exec .unpack3 { withBytes [0x88, 0xC6, 0xFA] with cfg := { Config.unbounded with e3cap := some 7 } })
      (fun t => t.status.code) = some 7 := by decide
theorem test_pack5_VQ22 :
    seen (exec .pack5 (withExts [0, 1, 2, 3, 4, 5, 6, 7])) (fun t => (cells t.bbuf 5, t.blen, t.cap)) =
      some ([0x20, 0x88, 0x41, 0x8A, 0x39], 5, 10) := by decide
theorem test_pack5_VQ25 :
    seen (exec .pack5 { withExts [0, 1, 2, 3, 4, 5, 6, 7] with cfg := { Config.unbounded with bcap := some 9 } })
      (fun t => t.status.code) = some 7 := by decide
theorem test_unpack5_VQ23 :
    seen (exec .unpack5 (withBytes [0x3F, 0x00])) (fun t => (t.status, cells t.e5buf 3, t.e5len)) =
      some (.ok, [31, 1, 0], 3) := by decide
theorem test_unpack5_unwritten :
    exec .unpack5 { State.reset with blen := 1 } = .fault (.unwrittenCell .bbuf 0) := rfl
theorem test_reserved0_VK2 : exec .reserved0 State.reset = .next { State.reset with status := .illegalCommand } := rfl
theorem test_reserved7_VK3 :
    seen (step (about (.writeReg .cmd 7))) (fun t => (t.status.code, t.input)) = some (8, []) := by decide

/-! The host: VK5, a refused index, a read of an unwritten cell, values that do not fit. -/

theorem test_host_decode_VK5 :
    seen (step (about (.writeReg .cmd 2))) (fun t => (t.status.code, t.wlen)) = some (2, 0) := by decide
theorem test_host_absent_cell :
    step { about (.writeCell .bbuf 5 1) with cfg := { Config.unbounded with bcap := some 5 } } =
      .refused (.noSuchCell .bbuf 5) := rfl
theorem test_host_unwritten_cell : step (about (.readCell .e3buf 0)) = .fault (.unwrittenCell .e3buf 0) := rfl
theorem test_host_wide_wlen :
    step (about (.writeReg .wlen 16777216)) = .refused (.registerValueTooWide .wlen 16777216) := rfl
theorem test_host_wide_span : step (about (.writeCell .e3buf 0 8)) = .refused (.cellValueTooWide .e3buf 8) := rfl
theorem test_host_write_then_value :
    seen (step (about (.writeCell .wbuf 3 0xFFFFFFFF))) (fun t => t.wbuf.cells) = some [(3, 0xFFFFFFFF)] := by decide

/-! Witnesses: for each statement with hypotheses, operands that meet them, at the edges of its clauses. -/

theorem witness_ResetLeavesRegistersZeroAndCellsUnwritten :
    ∃ s rest t, s.replaying = false ∧ s.input = HostAct.reset :: rest ∧ step s = .next t :=
  ⟨{ withWords [1] 2 with input := [.reset] }, [], _, rfl, rfl, rfl⟩

theorem witness_ResetActionCompletes :
    ∃ (s : State) (rest : List HostAct), s.replaying = false ∧ s.input = .reset :: rest :=
  ⟨{ withWords [1] 2 with input := [.reset] }, [], rfl, rfl⟩

theorem witness_BlockWithoutHostActionStaysAsItIs : ∃ s : State, s.replaying = false ∧ s.input = [] :=
  ⟨withWords [1] 2, rfl, rfl⟩

theorem witness_StepRunsTheCommandWritten :
    (∃ (s : State) (i : Instr), s.replaying = false ∧ s.input = [.writeReg .cmd 7] ∧ decodeNat .cmd 7 = .ok i) ∧
    (∃ s : State, s.replaying = false ∧ s.input = [.writeReg .cmd 8]) :=
  ⟨⟨about (.writeReg .cmd 7), .reserved7, rfl, rfl, rfl⟩, ⟨about (.writeReg .cmd 8), rfl, rfl⟩⟩

theorem witness_ReplayFetchesAndRunsTheDecodedSpanCode :
    (∃ s : State, s.replaying = true ∧ s.dec.sp < s.dec.spanLength ∧
      engineRead s.cfg .e3buf s.e3buf s.dec.sp = .ok 7) ∧
    (∃ s : State, s.replaying = true ∧ s.dec.spanLength ≤ s.dec.sp) :=
  ⟨⟨{ withSpans [7] with replaying := true, dec := { DecRegs.start with spanLength := 1 } }, rfl, by decide, rfl⟩,
    ⟨{ State.reset with replaying := true }, rfl, by decide⟩⟩

theorem witness_ReadOnlyRegistersIgnoreWrites :
    ∃ s : State, s.replaying = false ∧ s.input = [.writeReg .cap 3] := ⟨about (.writeReg .cap 3), rfl, rfl⟩

theorem witness_WrittenRegistersReadBack :
    (∃ s : State, s.replaying = false ∧ s.input = [.writeReg .algo 255]) ∧
    (∃ s : State, s.replaying = false ∧ s.input = [.writeReg .algo 256]) ∧
    (∃ s : State, s.replaying = false ∧ s.input = [.writeReg .wlen 16777215]) ∧
    (∃ s : State, s.replaying = false ∧ s.input = [.writeReg .wlen 16777216]) :=
  ⟨⟨about (.writeReg .algo 255), rfl, rfl⟩, ⟨about (.writeReg .algo 256), rfl, rfl⟩,
    ⟨about (.writeReg .wlen 16777215), rfl, rfl⟩, ⟨about (.writeReg .wlen 16777216), rfl, rfl⟩⟩

theorem witness_RegisterReadsReturnTheValue :
    ∀ r : Reg, ∃ s : State, s.replaying = false ∧ s.input = [.readReg r] :=
  fun r => ⟨about (.readReg r), rfl, rfl⟩

theorem witness_WrittenCellsReadBackAndNoOtherChanges :
    (∃ s : State, s.replaying = false ∧ s.input = [.writeCell .e5buf 5 31] ∧ cellExists s.cfg .e5buf 5 = false) ∧
    (∃ s : State, s.replaying = false ∧ s.input = [.writeCell .e5buf 4 32] ∧ cellExists s.cfg .e5buf 4 = true ∧
      2 ^ cellWidth .e5buf ≤ 32) ∧
    (∃ s : State, s.replaying = false ∧ s.input = [.writeCell .e5buf 4 31] ∧ cellExists s.cfg .e5buf 4 = true ∧
      31 < 2 ^ cellWidth .e5buf) :=
  let cfg : Config := { Config.unbounded with e5cap := some 5 }
  ⟨⟨{ about (.writeCell .e5buf 5 31) with cfg := cfg }, rfl, rfl, rfl⟩,
    ⟨{ about (.writeCell .e5buf 4 32) with cfg := cfg }, rfl, rfl, rfl, by decide⟩,
    ⟨{ about (.writeCell .e5buf 4 31) with cfg := cfg }, rfl, rfl, rfl, by decide⟩⟩

theorem witness_HostReadsOfCells :
    (∃ s : State, s.replaying = false ∧ s.input = [.readCell .bbuf 5] ∧ cellExists s.cfg .bbuf 5 = false) ∧
    (∃ s : State, s.replaying = false ∧ s.input = [.readCell .bbuf 4] ∧ cellExists s.cfg .bbuf 4 = true ∧
      cellValue .bbuf 4 s = none) ∧
    (∃ s : State, s.replaying = false ∧ s.input = [.readCell .bbuf 0] ∧ cellExists s.cfg .bbuf 0 = true ∧
      cellValue .bbuf 0 s = some 9) :=
  ⟨⟨{ about (.readCell .bbuf 5) with cfg := { Config.unbounded with bcap := some 5 } }, rfl, rfl, rfl⟩,
    ⟨{ about (.readCell .bbuf 4) with cfg := { Config.unbounded with bcap := some 5 } }, rfl, rfl, rfl, rfl⟩,
    ⟨{ withBytes [9] with input := [.readCell .bbuf 0] }, rfl, rfl, rfl, rfl⟩⟩

theorem witness_InstructionWordsAreOneToOne :
    Instr.wellFormed .span3 .x = true ∧ Instr.wellFormed .cmd .reserved7 = true := by decide

theorem witness_SpanProgramsSurvivePacking : spanProgram [.d1, .x, .t] = true := by decide

theorem witness_CountIsBigEndian : ([0xAB, 0, 0, 1] : List Byte).length = 4 := rfl

theorem witness_LiteralCodesAdvanceByTheirValue :
    (∃ (c : Span) (s : State), 1 ≤ c.toNat ∧ c.toNat ≤ 6 ∧ s.dec.bo + c.toNat = 32) ∧
    (∃ (c : Span) (s : State), 1 ≤ c.toNat ∧ c.toNat ≤ 6 ∧ s.dec.bo + c.toNat = 33) :=
  ⟨⟨6, atBo 26 0, by decide, by decide, rfl⟩, ⟨1, atBo 32 0, by decide, by decide, rfl⟩⟩

theorem witness_ThirtyTwoD1FillTheWord :
    (∃ s : State, s.dec.bo ≤ 31) ∧ (∃ s : State, 32 ≤ s.dec.bo) ∧
    (∃ (s : State) (n : Nat), s.dec.bo = 0 ∧ s.dec.fp = 0 ∧ n = 32 ∧ n ≤ 32) :=
  ⟨⟨atBo 31 0, by decide⟩, ⟨atBo 32 0, by decide⟩, ⟨State.reset, 32, rfl, rfl, rfl, by decide⟩⟩

theorem witness_D2ToD6AdvanceOrStop :
    ∀ p ∈ [(Instr.d2, 2), (.d3, 3), (.d4, 4), (.d5, 5), (.d6, 6)],
      (∃ s : State, s.dec.bo = 32 - p.2 ∧ s.dec.bo + p.2 ≤ 32) ∧ (∃ s : State, s.dec.bo = 33 - p.2 ∧ 33 - p.2 ≤ s.dec.bo) := by
  intro p hp
  have : p.2 ≤ 32 := by fin_cases hp <;> decide
  exact ⟨⟨atBo (32 - p.2) 0, rfl, by simp only [atBo]; omega⟩, ⟨atBo (33 - p.2) 0, rfl, le_rfl⟩⟩

theorem witness_TerminatorStoresTheSubFingerprint :
    (∃ s : State, s.dec.wp < s.cfg.wcap.val) ∧ (∃ s : State, s.cfg.wcap.val ≤ s.dec.wp) :=
  ⟨⟨{ State.reset with dec := { DecRegs.start with wp := 16777214 } }, by decide⟩,
    ⟨{ State.reset with dec := { DecRegs.start with wp := 16777215 } }, by decide⟩⟩

theorem witness_EscapeConsumesTheNextExtension :
    (∃ s : State, cellExists s.cfg .e5buf s.dec.xp = false) ∧
    (∃ s : State, cellExists s.cfg .e5buf s.dec.xp = true ∧ s.e5buf.read s.dec.xp = none) ∧
    (∃ s : State, cellExists s.cfg .e5buf s.dec.xp = true ∧ s.e5buf.read s.dec.xp = some 25 ∧
      s.dec.bo + 7 + (25#5).toNat ≤ 32) ∧
    (∃ s : State, cellExists s.cfg .e5buf s.dec.xp = true ∧ s.e5buf.read s.dec.xp = some 26 ∧
      32 < s.dec.bo + 7 + (26#5).toNat) :=
  ⟨⟨{ State.reset with cfg := { Config.unbounded with e5cap := some 0 } }, rfl⟩, ⟨State.reset, rfl, rfl⟩,
    ⟨withExts [25], rfl, rfl, by decide⟩, ⟨withExts [26], rfl, rfl, by decide⟩⟩

/-- One word with one escape, in a block whose capacities it just fills. -/
def fullBlock : State :=
  { withWords [0x40] 0x5A with
    cfg := { wcap := 1, bcap := some 10, e3cap := some 2, e5cap := some 1, countPrecheck := true } }

theorem witness_EncodeWritesTheFrame :
    ∃ (s : State) (ws : List Word), s.wbuf.Holds ws ∧ ws.length = s.wlen.toNat ∧ ws.length ≤ s.cfg.wcap.val ∧
      exceeds (transform ws).1.length s.cfg.e3cap = false ∧ exceeds (transform ws).2.length s.cfg.e5cap = false ∧
      exceeds (4 + pack3Size (transform ws).1.length + pack5Size (transform ws).2.length) s.cfg.bcap = false :=
  ⟨fullBlock, [0x40], seqBuf_holds _, by decide +kernel, by decide +kernel, by decide +kernel, by decide +kernel,
    by decide +kernel⟩

theorem witness_EncodeRefusedExactlyForCapacity :
    (∃ s : State, s.cfg.wcap.val < s.wlen.toNat) ∧
    (∃ (s : State) (ws : List Word), s.wbuf.Holds ws ∧ ws.length = s.wlen.toNat ∧
      exceeds (4 + pack3Size (transform ws).1.length + pack5Size (transform ws).2.length) s.cfg.bcap = true) :=
  ⟨⟨{ fullBlock with wlen := 2 }, by decide⟩,
    ⟨{ fullBlock with cfg := { fullBlock.cfg with bcap := some 9 } }, [0x40], seqBuf_holds _, by decide +kernel,
      by decide +kernel⟩⟩

theorem witness_DecodeReportsTheSequence :
    ∃ (s : State) (bs : List Byte), s.bbuf.Holds bs ∧ bs.length = s.blen ∧
      decompress s.cfg bs = .ok 0xAB [0x00000100] [7, 0] [2] :=
  ⟨withBytes [0xAB, 0, 0, 1, 7, 2], _, seqBuf_holds _, rfl, by decide +kernel⟩

theorem witness_DecodeReportsTheStop :
    (∃ (s : State) (bs : List Byte), s.bbuf.Holds bs ∧ bs.length = s.blen ∧
      decompress s.cfg bs = .stopped .unspecifiedBitOffset) ∧
    (∃ (s : State) (bs : List Byte), s.bbuf.Holds bs ∧ bs.length = s.blen ∧
      decompress s.cfg bs = .stopped (.error (.missingExtension 1 0))) ∧
    (∃ (s : State) (bs : List Byte), s.bbuf.Holds bs ∧ bs.length = s.blen ∧
      decompress s.cfg bs = .stopped .refusedCapacity) :=
  ⟨⟨withBytes [0xAB, 0, 0, 1, 7, 26], _, seqBuf_holds _, rfl, by decide +kernel⟩,
    ⟨withBytes [0xAB, 0, 0, 1, 7], _, seqBuf_holds _, rfl, by decide +kernel⟩,
    ⟨{ withBytes [0xAB, 0, 0, 2, 0, 0] with cfg := { Config.unbounded with wcap := 1 } }, _, seqBuf_holds _, rfl,
      by decide +kernel⟩⟩

theorem witness_ShortInputIsReportedUnread :
    (∃ s : State, exceeds s.blen s.cfg.bcap = false ∧ s.blen = 0) ∧
    (∃ s : State, exceeds s.blen s.cfg.bcap = false ∧ s.blen = 3) :=
  ⟨⟨State.reset, rfl, rfl⟩, ⟨{ State.reset with blen := 3 }, rfl, rfl⟩⟩

theorem witness_IncompleteStrideIsNeverReported : ∃ s t : State, exec .decode s = .next t :=
  ⟨withBytes [0xAB, 0, 0, 0], _, rfl⟩

theorem witness_DecodeEndsWithItsCursorsAtTheEnd :
    seen (exec .decode (withBytes [0xAB, 0, 0, 1, 7, 2])) (fun t => t.status) = some .ok := by decide +kernel

theorem witness_MissingExtensionOperandsAreOrdered :
    seen (exec .decode (withBytes [0xAB, 0, 0, 1, 7])) (fun t => t.status) = some .missingExtension := by
  decide +kernel

theorem witness_DecodeChangesNothingOutsideItsOutputs : ∃ s t : State, exec .decode s = .next t :=
  ⟨withBytes [0xAB, 0, 0, 0], _, rfl⟩

theorem witness_RoundTripUnderTheCountCheck :
    ([1] : List Word).length ≤ (compress [1] 0).length - 4 ∧
    (compress [0, 0] 0).length - 4 < ([0, 0] : List Word).length ∧
    5 * ([3, 0] : List Word).length ≤ 3 * totalSetBits [3, 0] := by decide +kernel

theorem witness_EncodeThenDecodeRestoresTheWords :
    ∃ (s : State) (ws : List Word), s.wbuf.Holds ws ∧ ws.length = s.wlen.toNat ∧ ws.length ≤ s.cfg.wcap.val ∧
      s.cfg.bcap = none ∧ s.cfg.e3cap = none ∧ s.cfg.e5cap = none ∧
      ws.length ≤ (compress ws s.algo).length - 4 :=
  ⟨withWords [0x80000001] 7, [0x80000001], seqBuf_holds _, by decide +kernel, by decide +kernel, rfl, rfl, rfl,
    by decide +kernel⟩

theorem witness_TrailingBytesAreIgnored :
    Decodes { Config.unbounded with countPrecheck := true } [0xAB, 0, 0, 1, 7, 2] 0xAB [0x00000100] :=
  ⟨[7, 0], [2], by decide +kernel⟩

theorem witness_Pack3PacksTheSpanBuffer :
    (∃ s : State, exceeds s.e3len s.cfg.e3cap = true) ∧
    (∃ (s : State) (xs : List Span), s.e3buf.Holds xs ∧ xs.length = s.e3len ∧ exceeds s.e3len s.cfg.e3cap = false ∧
      exceeds (pack3Size s.e3len) s.cfg.bcap = true) ∧
    (∃ (s : State) (xs : List Span), s.e3buf.Holds xs ∧ xs.length = s.e3len ∧ exceeds s.e3len s.cfg.e3cap = false ∧
      exceeds (pack3Size s.e3len) s.cfg.bcap = false) :=
  ⟨⟨{ State.reset with e3len := 3, cfg := { Config.unbounded with e3cap := some 2 } }, rfl⟩,
    ⟨{ withSpans [1, 2, 3] with cfg := { Config.unbounded with e3cap := some 3, bcap := some 1 } }, [1, 2, 3],
      seqBuf_holds _, rfl, rfl, rfl⟩,
    ⟨{ withSpans [1, 2, 3] with cfg := { Config.unbounded with e3cap := some 3, bcap := some 2 } }, [1, 2, 3],
      seqBuf_holds _, rfl, rfl, rfl⟩⟩

theorem witness_Unpack3UnpacksTheByteBuffer :
    (∃ s : State, exceeds s.blen s.cfg.bcap = true) ∧
    (∃ (s : State) (bs : List Byte), s.bbuf.Holds bs ∧ bs.length = s.blen ∧ exceeds s.blen s.cfg.bcap = false ∧
      exceeds (8 * s.blen / 3) s.cfg.e3cap = true) ∧
    (∃ (s : State) (bs : List Byte), s.bbuf.Holds bs ∧ bs.length = s.blen ∧ exceeds s.blen s.cfg.bcap = false ∧
      exceeds (8 * s.blen / 3) s.cfg.e3cap = false) :=
  ⟨⟨{ State.reset with blen := 3, cfg := { Config.unbounded with bcap := some 2 } }, rfl⟩,
    ⟨{ withBytes [1, 2] with cfg := { Config.unbounded with e3cap := some 4, bcap := some 2 } }, [1, 2],
      seqBuf_holds _, rfl, rfl, rfl⟩,
    ⟨{ withBytes [1, 2] with cfg := { Config.unbounded with e3cap := some 5, bcap := some 2 } }, [1, 2],
      seqBuf_holds _, rfl, rfl, rfl⟩⟩

theorem witness_Pack5PacksTheExtensionBuffer :
    (∃ s : State, exceeds s.e5len s.cfg.e5cap = true) ∧
    (∃ (s : State) (xs : List Ext), s.e5buf.Holds xs ∧ xs.length = s.e5len ∧ exceeds s.e5len s.cfg.e5cap = false ∧
      exceeds (pack5Size s.e5len) s.cfg.bcap = true) ∧
    (∃ (s : State) (xs : List Ext), s.e5buf.Holds xs ∧ xs.length = s.e5len ∧ exceeds s.e5len s.cfg.e5cap = false ∧
      exceeds (pack5Size s.e5len) s.cfg.bcap = false) :=
  ⟨⟨{ State.reset with e5len := 3, cfg := { Config.unbounded with e5cap := some 2 } }, rfl⟩,
    ⟨{ withExts [1, 2] with cfg := { Config.unbounded with e5cap := some 2, bcap := some 4 } }, [1, 2],
      seqBuf_holds _, rfl, rfl, rfl⟩,
    ⟨{ withExts [1, 2] with cfg := { Config.unbounded with e5cap := some 2, bcap := some 5 } }, [1, 2],
      seqBuf_holds _, rfl, rfl, rfl⟩⟩

theorem witness_Unpack5UnpacksTheByteBuffer :
    (∃ s : State, exceeds s.blen s.cfg.bcap = true) ∧
    (∃ (s : State) (bs : List Byte), s.bbuf.Holds bs ∧ bs.length = s.blen ∧ exceeds s.blen s.cfg.bcap = false ∧
      exceeds (8 * s.blen / 5) s.cfg.e5cap = true) ∧
    (∃ (s : State) (bs : List Byte), s.bbuf.Holds bs ∧ bs.length = s.blen ∧ exceeds s.blen s.cfg.bcap = false ∧
      exceeds (8 * s.blen / 5) s.cfg.e5cap = false) :=
  ⟨⟨{ State.reset with blen := 3, cfg := { Config.unbounded with bcap := some 2 } }, rfl⟩,
    ⟨{ withBytes [1, 2] with cfg := { Config.unbounded with e5cap := some 2, bcap := some 2 } }, [1, 2],
      seqBuf_holds _, rfl, rfl, rfl⟩,
    ⟨{ withBytes [1, 2] with cfg := { Config.unbounded with e5cap := some 3, bcap := some 2 } }, [1, 2],
      seqBuf_holds _, rfl, rfl, rfl⟩⟩

theorem witness_PackedBitsFollowTheBitString :
    (3 = 3 ∨ 3 = 5) ∧ 7 < 8 * (packElements ([5, 2] : List (BitVec 3))).length ∧ ¬ 7 < 3 * 2 := by decide

theorem witness_UnpackedElementsAreTheBitsOfTheString :
    (5 = 3 ∨ 5 = 5) ∧ 2 < (unpackElements 5 [0, 0xFF]).1.length ∧ 4 < 5 := by decide

theorem witness_ReservedCommandsChangeOnlyStatus :
    (∃ s : State, s.replaying = false ∧ s.input = [.writeReg .cmd 0]) ∧
    (∃ s : State, s.replaying = false ∧ s.input = [.writeReg .cmd 7]) :=
  ⟨⟨about (.writeReg .cmd 0), rfl, rfl⟩, ⟨about (.writeReg .cmd 7), rfl, rfl⟩⟩

theorem witness_CodersEndOkOrRefused :
    Instr.unpack5 ∈ [Instr.encode, .pack3, .unpack3, .pack5, .unpack5] ∧ ∃ s t : State, exec .unpack5 s = .next t :=
  ⟨by decide, withBytes [1], _, rfl⟩

theorem witness_UnboundedBlockNeverRefusesCapacity :
    ∃ s t : State, Instr.wellFormed .cmd .decode = true ∧ s.cfg.wcap.val = 16777215 ∧ s.cfg.bcap = none ∧
      s.cfg.e3cap = none ∧ s.cfg.e5cap = none ∧ exec .decode s = .next t :=
  ⟨withBytes [0xAB, 0, 0, 0], _, rfl, rfl, rfl, rfl, rfl, rfl⟩

theorem witness_CommandsIgnoreTheWorkingRegisters : Instr.wellFormed .cmd .decode = true := by decide

theorem witness_UnwrittenInputStopsTheCommand :
    (∃ s : State, 0 < s.wlen.toNat ∧ s.wlen.toNat ≤ s.cfg.wcap.val ∧ s.wbuf.read 0 = none) ∧
    (∃ s : State, 2 < s.e3len ∧ s.e3buf.read 2 = none ∧ ∀ j < 2, s.e3buf.read j ≠ none) ∧
    (∃ s : State, 0 < s.e5len ∧ s.e5buf.read 0 = none) ∧
    (∃ s : State, 3 < 4 ∧ 4 ≤ s.blen ∧ s.bbuf.read 3 = none ∧ ∀ j < 3, s.bbuf.read j ≠ none) ∧
    (∃ s : State, 4 < s.blen ∧ s.bbuf.read 4 = none ∧ (∀ j < 4, s.bbuf.read j ≠ none) ∧
      s.bbuf.Holds [0xAB, 0, 0, 1] ∧ (headerCount [0xAB, 0, 0, 1]).toNat ≤ s.blen - 4) :=
  ⟨⟨{ State.reset with wlen := 1 }, by decide, by decide, rfl⟩,
    ⟨{ withSpans [1, 2] with e3len := 3 }, by decide, rfl, by decide⟩,
    ⟨{ State.reset with e5len := 1 }, by decide, rfl⟩,
    ⟨{ withBytes [0xAB, 0, 0] with blen := 4 }, by decide, by decide, rfl, by decide⟩,
    ⟨{ withBytes [0xAB, 0, 0, 1] with blen := 5 }, by decide, rfl, by decide, seqBuf_holds _, by decide⟩⟩

theorem witness_NoStepChangesTheParameters : ∃ s t : State, step s = .next t :=
  ⟨about (.writeReg .blen 3), _, rfl⟩

theorem witness_EveryStepKeepsTheStateSafe : ∃ s t : State, s.Inv ∧ step s = .next t :=
  ⟨{ about (.writeReg .cmd 4) with bbuf := Buf.ofSeq 0 [0x07, 0x00], blen := 2, freeCount := 1 }, _,
    { noCommandRuns := rfl
      wbuf := Buf.unwritten_safe
      bbuf := Buf.ofSeq_safe rfl (by decide)
      e3buf := Buf.unwritten_safe
      e5buf := Buf.unwritten_safe }, rfl⟩

end Sys2Proof.Tests
end

section
/-! PROOF. A command ends `RefusedCapacity` only where a number it tested exceeds a capacity (00_scope.md R7,
60_exceptions.md R238). For each command the test it failed is named; the replay of `DECODE` makes no such test, and ends
either running or `UnspecifiedBitOffset`. -/

namespace Sys2Proof.Machine

/-- Some number that a command can test exceeds a capacity of `cfg`. A number of words is a 24-bit register (10_state.md
R22), so `WCAP` need only reach 2^24 - 1; the other numbers have no bound. -/
inductive CapacityExceeded (cfg : Config) : Prop where
  | words (c : BitVec 24) (h : exceeds c.toNat (capacity cfg .wbuf) = true)
  | bytes (n : Nat) (h : exceeds n cfg.bcap = true)
  | spans (n : Nat) (h : exceeds n cfg.e3cap = true)
  | exts (n : Nat) (h : exceeds n cfg.e5cap = true)

/-- No 24-bit count exceeds the greatest `WCAP`, and nothing exceeds an unbounded capacity (R7). -/
theorem not_capacityExceeded_of_unbounded {cfg : Config} (hw : cfg.wcap.val = 16777215) (hb : cfg.bcap = none)
    (h3 : cfg.e3cap = none) (h5 : cfg.e5cap = none) : ¬ CapacityExceeded cfg := by
  rintro (⟨c, h⟩ | ⟨n, h⟩ | ⟨n, h⟩ | ⟨n, h⟩)
  case words =>
    have hc : c.toNat < 16777216 := c.isLt
    simp only [capacity, exceeds_some, decide_eq_true_eq] at h
    omega
  case bytes => simp [hb] at h
  case spans => simp [h3] at h
  case exts => simp [h5] at h

/-! The packers and unpackers: two tests each, then the command ends `OK`. -/

theorem capacityExceeded_of_execPack3 {s t : State} (h : execPack3 s = .next t) (ht : t.status = .refusedCapacity) :
    CapacityExceeded s.cfg := by
  unfold execPack3 at h
  split at h
  · next hc => exact (Bool.or_eq_true_iff.mp hc).elim (.spans _) (.bytes _)
  · split at h
    · cases h
    · cases h; simp at ht

theorem capacityExceeded_of_execPack5 {s t : State} (h : execPack5 s = .next t) (ht : t.status = .refusedCapacity) :
    CapacityExceeded s.cfg := by
  unfold execPack5 at h
  split at h
  · next hc => exact (Bool.or_eq_true_iff.mp hc).elim (.exts _) (.bytes _)
  · split at h
    · cases h
    · cases h; simp at ht

theorem capacityExceeded_of_execUnpack3 {s t : State} (h : execUnpack3 s = .next t)
    (ht : t.status = .refusedCapacity) : CapacityExceeded s.cfg := by
  unfold execUnpack3 at h
  split at h
  · next hc => exact (Bool.or_eq_true_iff.mp hc).elim (.bytes _) (.spans _)
  · split at h
    · cases h
    · cases h; simp at ht

theorem capacityExceeded_of_execUnpack5 {s t : State} (h : execUnpack5 s = .next t)
    (ht : t.status = .refusedCapacity) : CapacityExceeded s.cfg := by
  unfold execUnpack5 at h
  split at h
  · next hc => exact (Bool.or_eq_true_iff.mp hc).elim (.bytes _) (.exts _)
  · split at h
    · cases h
    · cases h; simp at ht

/-! `ENCODE`. -/

theorem capacityExceeded_of_encodeFinish {e : Encoder} {s : State}
    (ht : (encodeFinish e s).status = .refusedCapacity) : CapacityExceeded s.cfg := by
  unfold encodeFinish at ht
  split at ht
  · next hc =>
    simp only [Bool.or_eq_true] at hc
    obtain (h3 | h5) | hb := hc
    · exact .spans _ h3
    · exact .exts _ h5
    · exact .bytes _ hb
  · simp at ht

theorem capacityExceeded_of_execEncode {s t : State} (h : execEncode s = .next t)
    (ht : t.status = .refusedCapacity) : CapacityExceeded s.cfg := by
  obtain ⟨hw, -⟩ | ⟨ws, -, rfl⟩ := execEncode_cases h
  · exact .words _ hw
  · exact capacityExceeded_of_encodeFinish ht

/-! `DECODE`: first the replay, which tests no capacity. -/

/-- All that a span code can do: store a word, advance by its value, or advance by an escape's distance (R161). -/
theorem execSpanCode_cases {c : Span} {s t : State} (h : execSpanCode c s = .next t) :
    execT s = .next t ∨ (∃ d, t = advance d s) ∨ execX s = .next t := by
  unfold execSpanCode at h
  split at h
  · exact .inl h
  · exact .inr (.inl ⟨1, (Host.Outcome.next.inj h).symm⟩)
  · exact .inr (.inl ⟨2, (Host.Outcome.next.inj h).symm⟩)
  · exact .inr (.inl ⟨3, (Host.Outcome.next.inj h).symm⟩)
  · exact .inr (.inl ⟨4, (Host.Outcome.next.inj h).symm⟩)
  · exact .inr (.inl ⟨5, (Host.Outcome.next.inj h).symm⟩)
  · exact .inr (.inl ⟨6, (Host.Outcome.next.inj h).symm⟩)
  · exact .inr (.inr h)

/-- The replay's invariant: the command still runs, or a span code has ended it `UnspecifiedBitOffset` (R160). -/
def RunsOrBeyondWord (s : State) : Prop :=
  s.replaying = true ∨ s.status = .unspecifiedBitOffset

theorem advance_keeps_runsOrBeyondWord (d : Nat) {s : State} (hs : RunsOrBeyondWord s) :
    RunsOrBeyondWord (advance d s) := by
  obtain ⟨-, ha⟩ | ⟨-, ha⟩ := advance_cases d s <;> rw [ha]
  · exact hs
  · exact .inr rfl

theorem execSpanCode_keeps_runsOrBeyondWord {c : Span} {s t : State} (h : execSpanCode c s = .next t)
    (hs : RunsOrBeyondWord s) : RunsOrBeyondWord t := by
  obtain hT | ⟨d, rfl⟩ | hX := execSpanCode_cases h
  · obtain ⟨-, rfl⟩ := execT_cases hT
    exact hs
  · exact advance_keeps_runsOrBeyondWord d hs
  · obtain ⟨e, -, rfl⟩ := execX_cases hX
    exact advance_keeps_runsOrBeyondWord _ hs

theorem replay_keeps_runsOrBeyondWord (n : Nat) {s t : State} (h : replay n s = .next t)
    (hs : RunsOrBeyondWord s) : RunsOrBeyondWord t := by
  induction n generalizing s with
  | zero => cases h; exact hs
  | succ n ih =>
    obtain ⟨-, rfl⟩ | ⟨c, u, -, -, hu, hn⟩ := replay_cases h
    · exact hs
    · exact ih hn (execSpanCode_keeps_runsOrBeyondWord hu hs)

theorem finishDecode_status_ne_refusedCapacity (a : Byte) (c : BitVec 24) (s : State) :
    (finishDecode a c s).status ≠ .refusedCapacity := by
  obtain ⟨-, hf⟩ | ⟨-, hf⟩ := finishDecode_cases a c s <;> simp [hf, Stop.status]

theorem runReplay_status_ne_refusedCapacity {a : Byte} {c : BitVec 24} {s t : State}
    (h : runReplay a c s = .next t) : t.status ≠ .refusedCapacity := by
  obtain ⟨u, hu, ⟨-, rfl⟩ | ⟨hr, rfl⟩⟩ := runReplay_cases h
  · exact finishDecode_status_ne_refusedCapacity a c u
  · have hend : RunsOrBeyondWord t := replay_keeps_runsOrBeyondWord _ hu (.inl rfl)
    have hstop : t.status = .unspecifiedBitOffset := hend.resolve_left (by simp [hr])
    simp [hstop]

/-! `DECODE`: the capacity tests, in the order of 60_exceptions.md R241. -/

theorem capacityExceeded_of_decodeExtensions {a : Byte} {c : BitVec 24} {tail : List Byte} {s t : State}
    (h : decodeExtensions a c tail s = .next t) (ht : t.status = .refusedCapacity) : CapacityExceeded s.cfg := by
  unfold decodeExtensions at h
  split at h
  · next h5 => exact .exts _ h5
  · split at h
    · cases h; simp [Stop.status] at ht
    · split at h
      · next hw => exact .words _ hw
      · exact absurd ht (runReplay_status_ne_refusedCapacity h)

theorem capacityExceeded_of_decodeSpans {a : Byte} {c : BitVec 24} {body : List Byte} {s t : State}
    (h : decodeSpans a c body s = .next t) (ht : t.status = .refusedCapacity) : CapacityExceeded s.cfg := by
  unfold decodeSpans at h
  dsimp only at h
  split at h
  · cases h; simp [Stop.status] at ht
  · have hext := capacityExceeded_of_decodeExtensions h ht
    exact hext

theorem capacityExceeded_of_decodeHeader {header : List Byte} {s t : State} (h : decodeHeader header s = .next t)
    (ht : t.status = .refusedCapacity) : CapacityExceeded s.cfg := by
  unfold decodeHeader at h
  split at h
  · cases h; simp [Stop.status] at ht
  · split at h
    · next h3 => exact .spans _ h3
    · split at h
      · cases h
      · exact capacityExceeded_of_decodeSpans h ht

theorem capacityExceeded_of_execDecode {s t : State} (h : execDecode s = .next t)
    (ht : t.status = .refusedCapacity) : CapacityExceeded s.cfg := by
  unfold execDecode at h
  split at h
  · next hb => exact .bytes _ hb
  · split at h
    · cases h; simp [Stop.status] at ht
    · split at h
      · cases h
      · exact capacityExceeded_of_decodeHeader h ht

/-! All commands. -/

/-- A command word that completes `RefusedCapacity` met a number above one of the capacities (R238). -/
theorem capacityExceeded_of_command {i : Instr} {s t : State} (hi : i.wellFormed .cmd = true)
    (h : exec i s = .next t) (ht : t.status = .refusedCapacity) : CapacityExceeded s.cfg := by
  cases i
  case encode => exact capacityExceeded_of_execEncode h ht
  case decode => exact capacityExceeded_of_execDecode h ht
  case pack3 => exact capacityExceeded_of_execPack3 h ht
  case unpack3 => exact capacityExceeded_of_execUnpack3 h ht
  case pack5 => exact capacityExceeded_of_execPack5 h ht
  case unpack5 => exact capacityExceeded_of_execUnpack5 h ht
  case reserved0 | reserved7 => cases h; simp at ht
  case t | d1 | d2 | d3 | d4 | d5 | d6 | x => exact absurd hi (by decide)

/-- Settles O50: a refusal for capacity needs a number above a capacity, and here there is none. -/
theorem unboundedBlockNeverRefusesCapacity : Obligations.UnboundedBlockNeverRefusesCapacity := by
  intro i s t hi hw hb h3 h5 h ht
  exact not_capacityExceeded_of_unbounded hw hb h3 h5 (capacityExceeded_of_command hi h ht)

end Sys2Proof.Machine
end

section
/-! PROOF. The host's accesses between commands (10_state.md R22 to R24, R27) and reset (R37): a step whose oldest action
starts no command is that access, and each access does to registers and cells what its rule says. -/

namespace Sys2Proof.Machine

/-! The step at an access. -/

/-- An action that is no write of `CMD` starts no command: the step is the access itself (00_scope.md R18). -/
theorem step_of_access {s : State} {act : HostAct} {rest : List HostAct} (hr : s.replaying = false)
    (hi : s.input = act :: rest) (hact : ∀ v, act ≠ .writeReg .cmd v) :
    step s = hostAccess act { s with input := rest } := by
  obtain ⟨hnil, -⟩ | ⟨v, _, hcmd, -⟩ | ⟨act', rest', hcons, hf⟩ := fetch_cases s
  · simp [hi] at hnil
  · rw [hi, List.cons.injEq] at hcmd
    exact absurd hcmd.1 (hact v)
  · rw [hi, List.cons.injEq] at hcons
    obtain ⟨rfl, rfl⟩ := hcons
    simp [step, hr, hf]

theorem step_writeReg {s : State} {r : Reg} {v : Nat} {rest : List HostAct} (hr : s.replaying = false)
    (hi : s.input = .writeReg r v :: rest) (hcmd : r ≠ .cmd) :
    step s = writeRegister r v { s with input := rest } :=
  step_of_access hr hi (by simp [hcmd])

theorem step_readReg {s : State} {r : Reg} {rest : List HostAct} (hr : s.replaying = false)
    (hi : s.input = .readReg r :: rest) : step s = .next (readRegister r { s with input := rest }) :=
  step_of_access hr hi (by simp)

theorem step_writeCell {s : State} {b : BufId} {i v : Nat} {rest : List HostAct} (hr : s.replaying = false)
    (hi : s.input = .writeCell b i v :: rest) : step s = writeCell b i v { s with input := rest } :=
  step_of_access hr hi (by simp)

theorem step_readCell {s : State} {b : BufId} {i : Nat} {rest : List HostAct} (hr : s.replaying = false)
    (hi : s.input = .readCell b i :: rest) : step s = readCell b i { s with input := rest } :=
  step_of_access hr hi (by simp)

theorem step_reset {s : State} {rest : List HostAct} (hr : s.replaying = false) (hi : s.input = .reset :: rest) :
    step s = .next (resetBlock { s with input := rest }) :=
  step_of_access hr hi (by simp)

/-! Registers. -/

theorem writeRegister_algo (s : State) {v : Nat} (hv : v < 256) :
    writeRegister .algo v s = .next { s with algo := BitVec.ofNat 8 v } := by
  simp [writeRegister, hv]

theorem writeRegister_wlen (s : State) {v : Nat} (hv : v < countRange) :
    writeRegister .wlen v s = .next { s with wlen := BitVec.ofNat 24 v } := by
  simp [writeRegister, hv]

/-- A write of one register changes the value of no other (10_state.md R22). -/
theorem registerValue_writeRegister_other {r : Reg} {v : Nat} {s t : State} (h : writeRegister r v s = .next t)
    {q : Reg} (hq : q ≠ r) : registerValue q t = registerValue q s := by
  cases r with
  | cmd | status | count | errExpected | errActual | cap => cases h; rfl
  | blen | e3len | e5len => cases h; cases q <;> trivial
  | algo | wlen =>
    simp only [writeRegister] at h
    split at h
    · cases h; cases q <;> trivial
    · cases h

/-! Cells. -/

/-- The cell written takes the value; every other cell, of this buffer or another, is as before (20_memory.md R68). -/
theorem cellValue_putCell (b b' : BufId) (i i' v : Nat) (s : State) :
    cellValue b' i' (putCell b i v s) =
      if (b', i') = (b, i) then some (v % 2 ^ cellWidth b) else cellValue b' i' s := by
  by_cases hb : b' = b
  · subst hb
    by_cases hi : i' = i
    · subst hi
      cases b' <;> simp [cellValue, putCell, cellWidth]
    · have hne : i ≠ i' := Ne.symm hi
      cases b' <;> simp [cellValue, putCell, Buf.read_write_other _ _ hne, hi]
  · cases b <;> cases b' <;> simp_all [cellValue, putCell]

theorem putCell_frame (b : BufId) (i v : Nat) (s : State) :
    putCell b i v s =
      { s with
        wbuf := (putCell b i v s).wbuf, bbuf := (putCell b i v s).bbuf
        e3buf := (putCell b i v s).e3buf, e5buf := (putCell b i v s).e5buf } := by
  cases b <;> rfl

/-! The settled statements. -/

/-- Settles O54: after reset no command runs and nothing is listed or marked. -/
theorem resetStateIsSafe : Obligations.ResetStateIsSafe where
  noCommandRuns := rfl
  wbuf := Buf.unwritten_safe
  bbuf := Buf.unwritten_safe
  e3buf := Buf.unwritten_safe
  e5buf := Buf.unwritten_safe

/-- Settles O1: the reset action leaves the registers and the buffers of `State.reset`. -/
theorem resetLeavesRegistersZeroAndCellsUnwritten : Obligations.ResetLeavesRegistersZeroAndCellsUnwritten := by
  rintro t (rfl | ⟨s, rest, hr, hi, h⟩)
  · exact ⟨rfl, rfl, rfl, rfl, rfl, rfl, rfl, rfl, rfl, rfl, rfl, fun _ => ⟨rfl, rfl, rfl, rfl⟩⟩
  · rw [step_reset hr hi] at h
    cases h
    exact ⟨rfl, rfl, rfl, rfl, rfl, rfl, rfl, rfl, rfl, rfl, rfl, fun _ => ⟨rfl, rfl, rfl, rfl⟩⟩

/-- Settles O6: `writeRegister` drops the value for each of the five. -/
theorem readOnlyRegistersIgnoreWrites : Obligations.ReadOnlyRegistersIgnoreWrites := by
  intro s r v rest hr hi hro
  have hcmd : r ≠ .cmd := by rintro rfl; simp at hro
  rw [step_writeReg hr hi hcmd]
  obtain rfl | rfl | rfl | rfl | rfl := hro <;> rfl

/-- Settles O7: `ALGO` and `WLEN` take the value where it fits and refuse it otherwise; a `LENW` register takes any. -/
theorem writtenRegistersReadBack : Obligations.WrittenRegistersReadBack := by
  intro s r v rest hr hi hw
  have hcmd : r ≠ .cmd := by rintro rfl; simp at hw
  have hother := @registerValue_writeRegister_other r v { s with input := rest }
  rw [step_writeReg hr hi hcmd]
  obtain rfl | rfl | rfl | rfl | rfl := hw
  case inl =>
    by_cases hv : v < 256
    · have hwrite := writeRegister_algo { s with input := rest } hv
      rw [if_neg (by simp [hv]), hwrite]
      exact ⟨_, rfl, Nat.mod_eq_of_lt hv, fun q hq => hother hwrite hq, rfl⟩
    · simp [writeRegister, hv, Nat.not_lt.mp hv]
  case inr.inl =>
    by_cases hv : v < countRange
    · have hwrite := writeRegister_wlen { s with input := rest } hv
      rw [if_neg (by simp [hv]), hwrite]
      exact ⟨_, rfl, Nat.mod_eq_of_lt hv, fun q hq => hother hwrite hq, rfl⟩
    · simp [writeRegister, hv, Nat.not_lt.mp hv]
  all_goals
    rw [if_neg (by simp)]
    exact ⟨_, rfl, rfl, fun q hq => hother rfl hq, rfl⟩

/-- Settles O8: the read returns `registerValue`, which for `CMD` is a free value of 3 bits. -/
theorem registerReadsReturnTheValue : Obligations.RegisterReadsReturnTheValue := by
  refine ⟨rfl, fun s r rest hr hi => ⟨_, step_readReg hr hi, rfl, ?_, ?_, ?_⟩⟩
  · intro hcmd
    simp [hcmd]
  · rintro rfl
    exact ⟨rfl, _, rfl, BitVec.isLt _⟩
  · refine ⟨?_, ?_, ?_, ?_, ?_, ?_, ?_, ?_, ?_, ?_⟩ <;> rintro rfl <;> rfl

/-- Settles O9, by what a cell holds after `putCell`. -/
theorem writtenCellsReadBackAndNoOtherChanges : Obligations.WrittenCellsReadBackAndNoOtherChanges := by
  intro s b i v rest hr hi
  rw [step_writeCell hr hi]
  refine ⟨fun hc => ?_, fun hc hv => ?_, fun hc hv => ⟨putCell b i v { s with input := rest }, ?_, ?_, ?_, ?_⟩⟩
  · simp [writeCell, hc]
  · simp [writeCell, hc, Nat.not_lt.mpr hv]
  · simp [writeCell, hc, hv]
  · rw [cellValue_putCell, if_pos rfl, Nat.mod_eq_of_lt hv]
  · intro b' i' hne
    rw [cellValue_putCell, if_neg hne]
    cases b' <;> rfl
  · exact putCell_frame b i v _

/-- Settles O10: the three outcomes of `readCell`. -/
theorem hostReadsOfCells : Obligations.HostReadsOfCells := by
  intro s b i rest hr hi
  have hin : cellValue b i { s with input := rest } = cellValue b i s := by cases b <;> rfl
  rw [step_readCell hr hi]
  refine ⟨fun hc => ?_, fun hc hv => ?_, fun v hc hv => ?_⟩
  · simp [readCell, hc]
  · simp [readCell, hc, hin, hv]
  · simp [readCell, hc, hin, hv]

end Sys2Proof.Machine
end

section
/-! PROOF. What `DECODE` leaves alone (10_state.md R26, 41_span_decoder.md R168), and that no step changes the parameters
(10_state.md R20). -/

namespace Sys2Proof.Machine

/-! What lies outside the outputs of `DECODE`. -/

/-- The part of a state that `DECODE` neither outputs nor uses as its own: its outputs, its working registers and the
error registers stand at their reset values. -/
def State.outsideDecode (s : State) : State :=
  { State.reset with
    blen := s.blen, cap := s.cap, bbuf := s.bbuf, enc := s.enc, cfg := s.cfg, readData := s.readData
    input := s.input }

/-- The frame of `DECODE` is: the command has ended, and that part is as before. -/
theorem decodeFrame_iff {s t : State} :
    DecodeFrame s t ↔ t.replaying = false ∧ t.outsideDecode = s.outsideDecode := by
  cases s
  cases t
  simp only [DecodeFrame, State.outsideDecode, State.mk.injEq]
  tauto

theorem DecodeFrame.of_outsideDecode_eq {s u t : State} (h : DecodeFrame u t)
    (hu : u.outsideDecode = s.outsideDecode) : DecodeFrame s t := by
  obtain ⟨hr, ho⟩ := decodeFrame_iff.mp h
  exact decodeFrame_iff.mpr ⟨hr, ho.trans hu⟩

theorem stopDecode_frame (c : Stop) (s : State) : DecodeFrame s (stopDecode c s) := rfl

/-! The replay. -/

theorem advance_outsideDecode (d : Nat) (s : State) : (advance d s).outsideDecode = s.outsideDecode := by
  obtain ⟨-, ha⟩ | ⟨-, ha⟩ := advance_cases d s <;> rw [ha] <;> rfl

theorem execSpanCode_outsideDecode {c : Span} {s t : State} (h : execSpanCode c s = .next t) :
    t.outsideDecode = s.outsideDecode := by
  obtain hT | ⟨d, rfl⟩ | hX := execSpanCode_cases h
  · obtain ⟨-, rfl⟩ := execT_cases hT
    rfl
  · exact advance_outsideDecode d s
  · obtain ⟨e, -, rfl⟩ := execX_cases hX
    exact advance_outsideDecode _ _

theorem replay_outsideDecode (n : Nat) {s t : State} (h : replay n s = .next t) :
    t.outsideDecode = s.outsideDecode := by
  induction n generalizing s with
  | zero => cases h; rfl
  | succ n ih =>
    obtain ⟨-, rfl⟩ | ⟨c, u, -, -, hu, hn⟩ := replay_cases h
    · rfl
    · have hcode := execSpanCode_outsideDecode hu
      exact (ih hn).trans hcode

/-! The command, from its end back to its entry. -/

theorem finishDecode_frame (a : Byte) (c : BitVec 24) (s : State) : DecodeFrame s (finishDecode a c s) := by
  obtain ⟨-, hf⟩ | ⟨-, hf⟩ := finishDecode_cases a c s <;> rw [hf] <;> rfl

theorem runReplay_frame {a : Byte} {c : BitVec 24} {s t : State} (h : runReplay a c s = .next t) :
    DecodeFrame s t := by
  obtain ⟨u, hu, hend⟩ := runReplay_cases h
  have hout := replay_outsideDecode _ hu
  obtain ⟨-, rfl⟩ | ⟨hr, rfl⟩ := hend
  · exact (finishDecode_frame a c u).of_outsideDecode_eq hout
  · exact decodeFrame_iff.mpr ⟨hr, hout⟩

theorem decodeExtensions_frame {a : Byte} {c : BitVec 24} {tail : List Byte} {s t : State}
    (h : decodeExtensions a c tail s = .next t) : DecodeFrame s t := by
  obtain rfl | ⟨-, rfl⟩ | ⟨-, -, -, hrun⟩ := decodeExtensions_cases h
  · exact stopDecode_frame _ s
  · exact stopDecode_frame _ s
  · exact (runReplay_frame hrun).of_outsideDecode_eq rfl

/-- All that `DECODE` can do with the bytes after the header: the spans run out, or the extensions come next, both from
the state in which the spans are unpacked and scanned (41_span_decoder.md R154 to R156). -/
theorem decodeSpans_cases {a : Byte} {c : BitVec 24} {body : List Byte} {s t : State}
    (h : decodeSpans a c body s = .next t) :
    ∃ (regs : DecRegs) (u : State),
      u = { s with e3buf := Buf.ofSeq s.freeCount (unpack3 body), pack := (unpackElements 3 body).2, dec := regs } ∧
      (t = stopDecode (.error .unexpectedEndOfData) u ∨
        decodeExtensions a c (body.drop (pack3Size u.dec.spanLength)) u = .next t) := by
  unfold decodeSpans at h
  dsimp only at h
  split at h
  · exact ⟨_, _, rfl, .inl (Host.Outcome.next.inj h).symm⟩
  · exact ⟨_, _, rfl, .inr h⟩

theorem decodeSpans_frame {a : Byte} {c : BitVec 24} {body : List Byte} {s t : State}
    (h : decodeSpans a c body s = .next t) : DecodeFrame s t := by
  obtain ⟨regs, u, rfl, rfl | hext⟩ := decodeSpans_cases h
  · rfl
  · exact (decodeExtensions_frame hext).of_outsideDecode_eq rfl

theorem decodeHeader_frame {header : List Byte} {s t : State} (h : decodeHeader header s = .next t) :
    DecodeFrame s t := by
  obtain rfl | rfl | ⟨body, -, -, hspans⟩ := decodeHeader_cases h
  · exact stopDecode_frame _ s
  · exact stopDecode_frame _ s
  · exact decodeSpans_frame hspans

theorem execDecode_frame {s t : State} (h : execDecode s = .next t) : DecodeFrame s t := by
  obtain rfl | rfl | ⟨header, -, -, -, hhead⟩ := execDecode_cases h
  · exact stopDecode_frame _ s
  · exact stopDecode_frame _ s
  · exact decodeHeader_frame hhead

/-- Settles O31, by the frame of each part of `DECODE`. -/
theorem decodeChangesNothingOutsideItsOutputs : Obligations.DecodeChangesNothingOutsideItsOutputs :=
  fun _ _ h => execDecode_frame h

/-! The parameters. -/

theorem cfg_eq_of_outsideDecode_eq {s t : State} (h : t.outsideDecode = s.outsideDecode) : t.cfg = s.cfg :=
  show t.outsideDecode.cfg = s.outsideDecode.cfg from congrArg State.cfg h

/-- A span code, run alone as by the replay, is dispatched by its word (30_encoding.md R96). -/
theorem exec_span {i : Instr} (hi : i.wellFormed .span3 = true) (s : State) :
    exec i s = execSpanCode (encode i) s := by
  cases i
  case t | d1 | d2 | d3 | d4 | d5 | d6 | x => rfl
  all_goals exact absurd hi (by decide)

theorem execSpanCode_cfg {c : Span} {s t : State} (h : execSpanCode c s = .next t) : t.cfg = s.cfg :=
  cfg_eq_of_outsideDecode_eq (execSpanCode_outsideDecode h)

theorem encodeFinish_cfg (e : Encoder) (s : State) : (encodeFinish e s).cfg = s.cfg := by
  obtain hf | ⟨-, -, -, hf⟩ := encodeFinish_cases e s <;> rw [hf] <;> rfl

theorem exec_cfg {i : Instr} {s t : State} (h : exec i s = .next t) : t.cfg = s.cfg := by
  cases i
  case t | d1 | d2 | d3 | d4 | d5 | d6 | x => rw [exec_span rfl] at h; exact execSpanCode_cfg h
  case encode =>
    obtain ⟨-, rfl⟩ | ⟨ws, -, rfl⟩ := execEncode_cases h
    · rfl
    · exact encodeFinish_cfg _ s
  case decode => exact cfg_eq_of_outsideDecode_eq (decodeFrame_iff.mp (execDecode_frame h)).2
  case pack3 => obtain rfl | ⟨xs, -, -, rfl⟩ := execPack3_cases h <;> rfl
  case pack5 => obtain rfl | ⟨xs, -, -, rfl⟩ := execPack5_cases h <;> rfl
  case unpack3 => obtain rfl | ⟨bs, -, -, rfl⟩ := execUnpack3_cases h <;> rfl
  case unpack5 => obtain rfl | ⟨bs, -, -, rfl⟩ := execUnpack5_cases h <;> rfl
  case reserved0 | reserved7 => cases h; rfl

theorem hostAccess_cfg {act : HostAct} {s t : State} (h : hostAccess act s = .next t) : t.cfg = s.cfg := by
  cases act with
  | writeReg r v =>
    obtain rfl | ⟨-, rfl⟩ | ⟨-, rfl⟩ | rfl | rfl | rfl := writeRegister_cases h <;> rfl
  | readReg r => cases h; rfl
  | writeCell b i v =>
    obtain ⟨-, -, rfl⟩ := writeCell_cases h
    cases b <;> rfl
  | readCell b i =>
    obtain ⟨-, v, -, rfl⟩ := readCell_cases h
    rfl
  | reset => cases h; rfl

/-- Settles O53: neither an instruction nor an access of the host writes `cfg`. -/
theorem noStepChangesTheParameters : Obligations.NoStepChangesTheParameters := by
  intro s t h
  obtain ⟨-, ⟨-, rfl⟩ | ⟨i, rest, hx⟩ | ⟨act, rest, -, ha⟩⟩ := step_cases h
  · rfl
  · have hcfg := exec_cfg hx
    exact hcfg
  · have hcfg := hostAccess_cfg ha
    exact hcfg

end Sys2Proof.Machine
end

section
/-! PROOF. Every step keeps the invariant `State.Inv` (10_state.md R24). Inside a command the buffers already bear the
mark of the command itself, so its parts keep the buffers safe under the bound `freeCount + 1`; the end of the command
draws that value and the bound is the invariant's again. -/

namespace Sys2Proof.Machine

/-! Safe buffers. -/

/-- The buffers of a safe state, for a bound `n` on their marks. -/
structure State.BuffersSafe (s : State) (n : Nat) : Prop where
  wbuf : s.wbuf.Safe (capacity s.cfg .wbuf) n
  bbuf : s.bbuf.Safe (capacity s.cfg .bbuf) n
  e3buf : s.e3buf.Safe (capacity s.cfg .e3buf) n
  e5buf : s.e5buf.Safe (capacity s.cfg .e5buf) n

theorem State.inv_iff {s : State} : s.Inv ↔ s.replaying = false ∧ s.BuffersSafe s.freeCount :=
  ⟨fun ⟨hr, hw, hb, h3, h5⟩ => ⟨hr, hw, hb, h3, h5⟩, fun ⟨hr, hw, hb, h3, h5⟩ => ⟨hr, hw, hb, h3, h5⟩⟩

theorem State.BuffersSafe.mono {s : State} {m n : Nat} (h : s.BuffersSafe m) (hmn : m ≤ n) : s.BuffersSafe n :=
  ⟨h.wbuf.mono hmn, h.bbuf.mono hmn, h.e3buf.mono hmn, h.e5buf.mono hmn⟩

theorem State.Inv.buffersSafe {s : State} (h : s.Inv) : s.BuffersSafe (s.freeCount + 1) :=
  (State.inv_iff.mp h).2.mono (Nat.le_succ _)

/-! A command ends. -/

theorem endCommand_inv (st : Status) {s : State} (h : s.BuffersSafe (s.freeCount + 1)) : (endCommand st s).Inv :=
  ⟨rfl, h.wbuf, h.bbuf, h.e3buf, h.e5buf⟩

theorem raise_inv (c : Stop) {s : State} (h : s.BuffersSafe (s.freeCount + 1)) : (raise c s).Inv :=
  ⟨rfl, h.wbuf, h.bbuf, h.e3buf, h.e5buf⟩

/-- A stop of `DECODE` leaves only `BBUF` of the old buffers. -/
theorem stopDecode_inv (c : Stop) {s : State} (hb : s.bbuf.Safe (capacity s.cfg .bbuf) (s.freeCount + 1)) :
    (stopDecode c s).Inv :=
  raise_inv c
    ⟨Buf.unspecified_safe (Nat.lt_succ_self _), hb, Buf.unspecified_safe (Nat.lt_succ_self _),
      Buf.unspecified_safe (Nat.lt_succ_self _)⟩

theorem refuseEncode_inv {s : State} (h : s.BuffersSafe (s.freeCount + 1)) : (refuseEncode s).Inv :=
  raise_inv _
    ⟨h.wbuf, Buf.unspecified_safe (Nat.lt_succ_self _), Buf.unspecified_safe (Nat.lt_succ_self _),
      Buf.unspecified_safe (Nat.lt_succ_self _)⟩

theorem refusePack_inv {s : State} (h : s.BuffersSafe (s.freeCount + 1)) : (refusePack s).Inv :=
  raise_inv _ ⟨h.wbuf, Buf.unspecified_safe (Nat.lt_succ_self _), h.e3buf, h.e5buf⟩

theorem refuseUnpack3_inv {s : State} (h : s.BuffersSafe (s.freeCount + 1)) : (refuseUnpack3 s).Inv :=
  raise_inv _ ⟨h.wbuf, h.bbuf, Buf.unspecified_safe (Nat.lt_succ_self _), h.e5buf⟩

theorem refuseUnpack5_inv {s : State} (h : s.BuffersSafe (s.freeCount + 1)) : (refuseUnpack5 s).Inv :=
  raise_inv _ ⟨h.wbuf, h.bbuf, h.e3buf, Buf.unspecified_safe (Nat.lt_succ_self _)⟩

theorem storePacked_inv {bytes : List Byte} (regs : PackRegs) (size : Nat) {s : State}
    (hlen : exceeds bytes.length s.cfg.bcap = false) (h : s.BuffersSafe (s.freeCount + 1)) :
    (storePacked bytes regs size s).Inv :=
  endCommand_inv _ ⟨h.wbuf, Buf.ofSeq_safe hlen (Nat.lt_succ_self _), h.e3buf, h.e5buf⟩

/-! `ENCODE`, the packers and the unpackers. -/

/-- The reserve of a frame holds the frame (40_span_encoder.md R140, R141). -/
theorem frameLength_le_reservedSize (spans exts : Nat) : frameLength spans exts ≤ reservedSize spans exts := by
  have h5 := packedLen5_le_pack5Size exts
  simp only [frameLength, reservedSize, pack3Size_eq]
  omega

theorem encodeFinish_inv {e : Encoder} (he : e.Counted) {s : State} (h : s.BuffersSafe (s.freeCount + 1)) :
    (encodeFinish e s).Inv := by
  obtain hf | ⟨h3, h5, hb, hf⟩ := encodeFinish_cases e s <;> rw [hf]
  · exact refuseEncode_inv ⟨h.wbuf, h.bbuf, h.e3buf, h.e5buf⟩
  · rw [he.spans] at h3 hb
    rw [he.exts] at h5 hb
    have hframe : exceeds (frameOf s.algo s.wlen e.spans e.exts).length s.cfg.bcap = false :=
      exceeds_mono (frameOf_length .. ▸ frameLength_le_reservedSize _ _) hb
    exact endCommand_inv _
      ⟨h.wbuf, Buf.ofSeq_safe hframe (Nat.lt_succ_self _), Buf.ofSeq_safe h3 (Nat.lt_succ_self _),
        Buf.ofSeq_safe h5 (Nat.lt_succ_self _)⟩

theorem execEncode_inv {s t : State} (h : execEncode s = .next t) (hs : s.BuffersSafe (s.freeCount + 1)) : t.Inv := by
  obtain ⟨-, rfl⟩ | ⟨ws, -, rfl⟩ := execEncode_cases h
  · exact refuseEncode_inv hs
  · exact encodeFinish_inv (runTransform_counted ws) hs

theorem execPack3_inv {s t : State} (h : execPack3 s = .next t) (hs : s.BuffersSafe (s.freeCount + 1)) : t.Inv := by
  obtain rfl | ⟨xs, hxs, hb, rfl⟩ := execPack3_cases h
  · exact refusePack_inv hs
  · obtain ⟨hlen, -⟩ := Buf.readFrom_ok hxs
    exact storePacked_inv _ _ (by rwa [pack3_length, hlen]) hs

theorem execPack5_inv {s t : State} (h : execPack5 s = .next t) (hs : s.BuffersSafe (s.freeCount + 1)) : t.Inv := by
  obtain rfl | ⟨xs, hxs, hb, rfl⟩ := execPack5_cases h
  · exact refusePack_inv hs
  · obtain ⟨hlen, -⟩ := Buf.readFrom_ok hxs
    exact storePacked_inv _ _ (exceeds_mono (by rw [pack5_length, hlen]; exact packedLen5_le_pack5Size _) hb) hs

theorem execUnpack3_inv {s t : State} (h : execUnpack3 s = .next t) (hs : s.BuffersSafe (s.freeCount + 1)) :
    t.Inv := by
  obtain rfl | ⟨bs, hbs, h3, rfl⟩ := execUnpack3_cases h
  · exact refuseUnpack3_inv hs
  · obtain ⟨hlen, -⟩ := Buf.readFrom_ok hbs
    have hspans : exceeds (unpack3 bs).length s.cfg.e3cap = false := by rwa [unpack3_length, hlen]
    exact endCommand_inv _ ⟨hs.wbuf, hs.bbuf, Buf.ofSeq_safe hspans (Nat.lt_succ_self _), hs.e5buf⟩

theorem execUnpack5_inv {s t : State} (h : execUnpack5 s = .next t) (hs : s.BuffersSafe (s.freeCount + 1)) :
    t.Inv := by
  obtain rfl | ⟨bs, hbs, h5, rfl⟩ := execUnpack5_cases h
  · exact refuseUnpack5_inv hs
  · obtain ⟨hlen, -⟩ := Buf.readFrom_ok hbs
    have hexts : exceeds (unpack5 bs).length s.cfg.e5cap = false := by rwa [unpack5_length, hlen]
    exact endCommand_inv _ ⟨hs.wbuf, hs.bbuf, hs.e3buf, Buf.ofSeq_safe hexts (Nat.lt_succ_self _)⟩

/-! The span codes and the replay. -/

/-- The bound on the marks, for states inside a replay and outside one: a running command has marked buffers with the
value it draws when it ends. -/
def State.markBound (s : State) : Nat :=
  if s.replaying then s.freeCount + 1 else s.freeCount

theorem State.markBound_le (s : State) : s.markBound ≤ s.freeCount + 1 := by
  unfold State.markBound
  split <;> omega

/-- The replay's invariant: the buffers are safe, whether the command still runs or a span code has ended it. -/
def State.SafeInReplay (s : State) : Prop :=
  s.BuffersSafe s.markBound

theorem State.safeInReplay_of_running {s : State} (hr : s.replaying = true) :
    s.SafeInReplay ↔ s.BuffersSafe (s.freeCount + 1) := by
  simp [State.SafeInReplay, State.markBound, hr]

theorem State.safeInReplay_of_ended {s : State} (hr : s.replaying = false) : s.SafeInReplay ↔ s.Inv := by
  simp [State.SafeInReplay, State.markBound, State.inv_iff, hr]

theorem advance_keeps_safeInReplay (d : Nat) {s : State} (hs : s.SafeInReplay) : (advance d s).SafeInReplay := by
  obtain ⟨-, ha⟩ | ⟨-, ha⟩ := advance_cases d s <;> rw [ha]
  · exact ⟨hs.wbuf, hs.bbuf, hs.e3buf, hs.e5buf⟩
  · exact (State.safeInReplay_of_ended rfl).mpr (stopDecode_inv _ (hs.bbuf.mono s.markBound_le))

theorem exceeds_of_cellExists {cfg : Config} {b : BufId} {i : Nat} (h : cellExists cfg b i = true) :
    exceeds (i + 1) (capacity cfg b) = false := by
  simpa [cellExists] using h

theorem execSpanCode_keeps_safeInReplay {c : Span} {s t : State} (h : execSpanCode c s = .next t)
    (hs : s.SafeInReplay) : t.SafeInReplay := by
  obtain hT | ⟨d, rfl⟩ | hX := execSpanCode_cases h
  · obtain ⟨hcell, rfl⟩ := execT_cases hT
    exact ⟨Buf.write_safe _ hs.wbuf (exceeds_of_cellExists hcell), hs.bbuf, hs.e3buf, hs.e5buf⟩
  · exact advance_keeps_safeInReplay d hs
  · obtain ⟨e, -, rfl⟩ := execX_cases hX
    exact advance_keeps_safeInReplay _ ⟨hs.wbuf, hs.bbuf, hs.e3buf, hs.e5buf⟩

theorem replay_keeps_safeInReplay (n : Nat) {s t : State} (h : replay n s = .next t) (hs : s.SafeInReplay) :
    t.SafeInReplay := by
  induction n generalizing s with
  | zero => cases h; exact hs
  | succ n ih =>
    obtain ⟨-, rfl⟩ | ⟨c, u, -, -, hu, hn⟩ := replay_cases h
    · exact hs
    · exact ih hn (execSpanCode_keeps_safeInReplay hu ⟨hs.wbuf, hs.bbuf, hs.e3buf, hs.e5buf⟩)

theorem advance_ended (d : Nat) {s : State} (hr : s.replaying = false) : (advance d s).replaying = false := by
  obtain ⟨-, ha⟩ | ⟨-, ha⟩ := advance_cases d s <;> rw [ha]
  · exact hr
  · rfl

/-- A span code run between commands starts none. -/
theorem execSpanCode_ended {c : Span} {s t : State} (h : execSpanCode c s = .next t) (hr : s.replaying = false) :
    t.replaying = false := by
  obtain hT | ⟨d, rfl⟩ | hX := execSpanCode_cases h
  · obtain ⟨-, rfl⟩ := execT_cases hT
    exact hr
  · exact advance_ended d hr
  · obtain ⟨e, -, rfl⟩ := execX_cases hX
    exact advance_ended _ hr

theorem execSpanCode_inv {c : Span} {s t : State} (h : execSpanCode c s = .next t) (hs : s.Inv) : t.Inv := by
  have hsafe : s.SafeInReplay := (State.safeInReplay_of_ended hs.noCommandRuns).mpr hs
  exact (State.safeInReplay_of_ended (execSpanCode_ended h hs.noCommandRuns)).mp
    (execSpanCode_keeps_safeInReplay h hsafe)

/-! `DECODE`. -/

theorem finishDecode_inv (a : Byte) (c : BitVec 24) {s : State} (h : s.BuffersSafe (s.freeCount + 1)) :
    (finishDecode a c s).Inv := by
  obtain ⟨-, hf⟩ | ⟨-, hf⟩ := finishDecode_cases a c s <;> rw [hf]
  · exact stopDecode_inv _ h.bbuf
  · exact endCommand_inv _
      ⟨Buf.truncate_safe h.wbuf _ (Nat.lt_succ_self _), h.bbuf, Buf.truncate_safe h.e3buf _ (Nat.lt_succ_self _),
        h.e5buf⟩

theorem runReplay_inv {a : Byte} {c : BitVec 24} {s t : State} (h : runReplay a c s = .next t)
    (hs : s.BuffersSafe (s.freeCount + 1)) : t.Inv := by
  obtain ⟨u, hu, hend⟩ := runReplay_cases h
  have hsafe : u.SafeInReplay := replay_keeps_safeInReplay _ hu ⟨hs.wbuf, hs.bbuf, hs.e3buf, hs.e5buf⟩
  obtain ⟨hr, rfl⟩ | ⟨hr, rfl⟩ := hend
  · exact finishDecode_inv a c ((State.safeInReplay_of_running hr).mp hsafe)
  · exact (State.safeInReplay_of_ended hr).mp hsafe

theorem decodeExtensions_inv {a : Byte} {c : BitVec 24} {tail : List Byte} {s t : State}
    (h : decodeExtensions a c tail s = .next t) (hs : s.BuffersSafe (s.freeCount + 1)) : t.Inv := by
  obtain rfl | ⟨-, rfl⟩ | ⟨h5, -, -, hrun⟩ := decodeExtensions_cases h
  · exact stopDecode_inv _ hs.bbuf
  · exact stopDecode_inv _ hs.bbuf
  · have hexts : exceeds (unpack5 tail).length s.cfg.e5cap = false := by rwa [unpack5_length]
    exact runReplay_inv hrun ⟨hs.wbuf, hs.bbuf, hs.e3buf, Buf.ofSeq_safe hexts (Nat.lt_succ_self _)⟩

theorem decodeSpans_inv {a : Byte} {c : BitVec 24} {body : List Byte} {s t : State}
    (h : decodeSpans a c body s = .next t) (h3 : exceeds (unpackCount 3 body.length) s.cfg.e3cap = false)
    (hs : s.BuffersSafe (s.freeCount + 1)) : t.Inv := by
  have hspans : exceeds (unpack3 body).length s.cfg.e3cap = false := by rwa [unpack3_length]
  obtain ⟨regs, u, rfl, rfl | hext⟩ := decodeSpans_cases h
  · exact stopDecode_inv _ hs.bbuf
  · exact decodeExtensions_inv hext ⟨hs.wbuf, hs.bbuf, Buf.ofSeq_safe hspans (Nat.lt_succ_self _), hs.e5buf⟩

theorem decodeHeader_inv {header : List Byte} {s t : State} (h : decodeHeader header s = .next t)
    (hs : s.BuffersSafe (s.freeCount + 1)) : t.Inv := by
  obtain rfl | rfl | ⟨body, h3, hbody, hspans⟩ := decodeHeader_cases h
  · exact stopDecode_inv _ hs.bbuf
  · exact stopDecode_inv _ hs.bbuf
  · obtain ⟨hlen, -⟩ := Buf.readFrom_ok hbody
    exact decodeSpans_inv hspans (by rwa [hlen]) hs

theorem execDecode_inv {s t : State} (h : execDecode s = .next t) (hs : s.BuffersSafe (s.freeCount + 1)) :
    t.Inv := by
  obtain rfl | rfl | ⟨header, -, -, -, hhead⟩ := execDecode_cases h
  · exact stopDecode_inv _ hs.bbuf
  · exact stopDecode_inv _ hs.bbuf
  · exact decodeHeader_inv hhead hs

/-! The step. -/

theorem exec_inv {i : Instr} {s t : State} (h : exec i s = .next t) (hs : s.Inv) : t.Inv := by
  cases i
  case t | d1 | d2 | d3 | d4 | d5 | d6 | x => rw [exec_span rfl] at h; exact execSpanCode_inv h hs
  case encode => exact execEncode_inv h hs.buffersSafe
  case decode => exact execDecode_inv h hs.buffersSafe
  case pack3 => exact execPack3_inv h hs.buffersSafe
  case unpack3 => exact execUnpack3_inv h hs.buffersSafe
  case pack5 => exact execPack5_inv h hs.buffersSafe
  case unpack5 => exact execUnpack5_inv h hs.buffersSafe
  case reserved0 | reserved7 => cases h; exact ⟨hs.noCommandRuns, hs.wbuf, hs.bbuf, hs.e3buf, hs.e5buf⟩

theorem readRegister_inv (r : Reg) {s : State} (hs : s.Inv) : (readRegister r s).Inv := by
  have hle : s.freeCount ≤ (readRegister r s).freeCount := by
    rw [readRegister_freeCount]
    split <;> omega
  obtain ⟨hr, hbufs⟩ := State.inv_iff.mp hs
  obtain ⟨hw, hb, h3, h5⟩ := hbufs.mono hle
  exact ⟨hr, hw, hb, h3, h5⟩

theorem putCell_inv {b : BufId} {i : Nat} (v : Nat) {s : State} (hcell : cellExists s.cfg b i = true) (hs : s.Inv) :
    (putCell b i v s).Inv := by
  have hcap := exceeds_of_cellExists hcell
  cases b with
  | wbuf => exact ⟨hs.noCommandRuns, Buf.write_safe _ hs.wbuf hcap, hs.bbuf, hs.e3buf, hs.e5buf⟩
  | bbuf => exact ⟨hs.noCommandRuns, hs.wbuf, Buf.write_safe _ hs.bbuf hcap, hs.e3buf, hs.e5buf⟩
  | e3buf => exact ⟨hs.noCommandRuns, hs.wbuf, hs.bbuf, Buf.write_safe _ hs.e3buf hcap, hs.e5buf⟩
  | e5buf => exact ⟨hs.noCommandRuns, hs.wbuf, hs.bbuf, hs.e3buf, Buf.write_safe _ hs.e5buf hcap⟩

theorem hostAccess_inv {act : HostAct} {s t : State} (h : hostAccess act s = .next t) (hs : s.Inv) : t.Inv := by
  cases act with
  | writeReg r v =>
    obtain rfl | ⟨-, rfl⟩ | ⟨-, rfl⟩ | rfl | rfl | rfl := writeRegister_cases h <;>
      exact ⟨hs.noCommandRuns, hs.wbuf, hs.bbuf, hs.e3buf, hs.e5buf⟩
  | readReg r => cases h; exact readRegister_inv r hs
  | writeCell b i v =>
    obtain ⟨hcell, -, rfl⟩ := writeCell_cases h
    exact putCell_inv v hcell hs
  | readCell b i =>
    obtain ⟨-, v, -, rfl⟩ := readCell_cases h
    exact ⟨hs.noCommandRuns, hs.wbuf, hs.bbuf, hs.e3buf, hs.e5buf⟩
  | reset =>
    cases h
    exact ⟨rfl, Buf.unwritten_safe, Buf.unwritten_safe, Buf.unwritten_safe, Buf.unwritten_safe⟩

/-- Settles O55: an instruction or an access of the host, from the state without that action. -/
theorem everyStepKeepsTheStateSafe : Obligations.EveryStepKeepsTheStateSafe := by
  intro s t hs h
  have htake : ∀ rest, State.Inv { s with input := rest } := fun _ =>
    ⟨hs.noCommandRuns, hs.wbuf, hs.bbuf, hs.e3buf, hs.e5buf⟩
  obtain ⟨-, ⟨-, rfl⟩ | ⟨i, rest, hx⟩ | ⟨act, rest, -, ha⟩⟩ := step_cases h
  · exact hs
  · exact exec_inv hx (htake rest)
  · exact hostAccess_inv ha (htake rest)

end Sys2Proof.Machine
end

section
/-! PROOF. No command depends on the working registers it starts with (10_state.md R21). The commands write their own
before they read them; the replay of `DECODE` runs beside the encoder's registers without looking at them, so replacing
those registers commutes with it. -/

namespace Sys2Proof.Machine

/-! Outcomes in sequence. -/

/-- Goes on with the next state of an outcome; a fault or a refusal stays. -/
def andThen (o : Host.Outcome State Fault Refusal) (g : State → Host.Outcome State Fault Refusal) :
    Host.Outcome State Fault Refusal :=
  match o with
  | .next t => g t
  | .fault f => .fault f
  | .refused r => .refused r

/-- An outcome with its next state changed by `f`. -/
def mapNext (f : State → State) (o : Host.Outcome State Fault Refusal) : Host.Outcome State Fault Refusal :=
  andThen o (fun t => .next (f t))

theorem andThen_mapNext (f : State → State) (o : Host.Outcome State Fault Refusal)
    (g : State → Host.Outcome State Fault Refusal) : andThen (mapNext f o) g = andThen o (fun t => g (f t)) := by
  cases o <;> rfl

theorem mapNext_andThen (f : State → State) (o : Host.Outcome State Fault Refusal)
    (g : State → Host.Outcome State Fault Refusal) : mapNext f (andThen o g) = andThen o (fun t => mapNext f (g t)) := by
  cases o <;> rfl

theorem mapNext_mapNext (f g : State → State) (o : Host.Outcome State Fault Refusal) :
    mapNext f (mapNext g o) = mapNext (f ∘ g) o := by
  cases o <;> rfl

/-! The replay turn by turn (41_span_decoder.md R158, R161). -/

theorem replay_ended (n : Nat) {s : State} (hr : ¬ (s.replaying = true ∧ s.dec.sp < s.dec.spanLength)) :
    replay (n + 1) s = .next s :=
  if_neg hr

theorem replay_fetch_error (n : Nat) {s : State} {f : Fault} (hr : s.replaying = true ∧ s.dec.sp < s.dec.spanLength)
    (hf : engineRead s.cfg .e3buf s.e3buf s.dec.sp = .error f) : replay (n + 1) s = .fault f := by
  simp [replay, hr, hf]

theorem replay_fetch_ok (n : Nat) {s : State} {c : Span} (hr : s.replaying = true ∧ s.dec.sp < s.dec.spanLength)
    (hc : engineRead s.cfg .e3buf s.e3buf s.dec.sp = .ok c) :
    replay (n + 1) s =
      andThen (execSpanCode c { s with dec := { s.dec with sp := s.dec.sp + 1 } }) (replay n) := by
  simp only [replay, if_pos hr, hc]
  rfl

/-- The state in which the replay starts (R158). -/
def State.startReplay (s : State) : State :=
  { s with replaying := true, dec := { s.dec with bo := 0, fp := 0, fpPrev := 0, sp := 0, xp := 0, wp := 0 } }

/-- The end of a replay: the end of the command, unless a span code has ended it. -/
def endReplay (a : Byte) (c : BitVec 24) (t : State) : State :=
  if t.replaying then finishDecode a c t else t

theorem runReplay_eq (a : Byte) (c : BitVec 24) (s : State) :
    runReplay a c s = mapNext (endReplay a c) (replay s.dec.spanLength s.startReplay) := by
  unfold runReplay State.startReplay
  split
  · next t ht =>
    rw [ht]
    exact (apply_ite Host.Outcome.next _ _ _).symm
  · next f hf => rw [hf]; rfl
  · next r hr => rw [hr]; rfl

/-! The replay does not look at the encoder's registers. -/

/-- The state with the encoder's registers replaced. -/
def State.withEnc (e : EncRegs) (s : State) : State :=
  { s with enc := e }

section Replay

variable (e : EncRegs)

theorem advance_withEnc (d : Nat) (s : State) : advance d (s.withEnc e) = (advance d s).withEnc e := by
  unfold advance
  rw [apply_ite (State.withEnc e)]
  rfl

theorem execT_withEnc (s : State) : execT (s.withEnc e) = mapNext (State.withEnc e) (execT s) := by
  unfold execT
  rw [apply_ite (mapNext (State.withEnc e))]
  rfl

theorem execX_withEnc (s : State) : execX (s.withEnc e) = mapNext (State.withEnc e) (execX s) := by
  have hread : engineRead (s.withEnc e).cfg .e5buf (s.withEnc e).e5buf (s.withEnc e).dec.xp =
    engineRead s.cfg .e5buf s.e5buf s.dec.xp := rfl
  unfold execX
  rw [hread]
  split
  · exact congrArg Host.Outcome.next (advance_withEnc e _ { s with dec := { s.dec with xp := s.dec.xp + 1 } })
  · rfl

theorem execSpanCode_withEnc (c : Span) (s : State) :
    execSpanCode c (s.withEnc e) = mapNext (State.withEnc e) (execSpanCode c s) := by
  unfold execSpanCode
  split
  · exact execT_withEnc e s
  · exact congrArg Host.Outcome.next (advance_withEnc e 1 s)
  · exact congrArg Host.Outcome.next (advance_withEnc e 2 s)
  · exact congrArg Host.Outcome.next (advance_withEnc e 3 s)
  · exact congrArg Host.Outcome.next (advance_withEnc e 4 s)
  · exact congrArg Host.Outcome.next (advance_withEnc e 5 s)
  · exact congrArg Host.Outcome.next (advance_withEnc e 6 s)
  · exact execX_withEnc e s

theorem replay_withEnc (n : Nat) (s : State) :
    replay n (s.withEnc e) = mapNext (State.withEnc e) (replay n s) := by
  induction n generalizing s with
  | zero => rfl
  | succ n ih =>
    by_cases hr : s.replaying = true ∧ s.dec.sp < s.dec.spanLength
    · cases hc : engineRead s.cfg .e3buf s.e3buf s.dec.sp with
      | error f =>
        rw [replay_fetch_error n hr hc, replay_fetch_error n (s := s.withEnc e) hr hc]
        rfl
      | ok c =>
        have hturn := execSpanCode_withEnc e c { s with dec := { s.dec with sp := s.dec.sp + 1 } }
        rw [replay_fetch_ok n hr hc, mapNext_andThen, ← funext ih, ← andThen_mapNext, ← hturn]
        exact replay_fetch_ok n (s := s.withEnc e) hr hc
    · rw [replay_ended n hr, replay_ended n (s := s.withEnc e) hr]
      rfl

theorem finishDecode_withEnc (a : Byte) (c : BitVec 24) (s : State) :
    finishDecode a c (s.withEnc e) = (finishDecode a c s).withEnc e := by
  unfold finishDecode
  rw [apply_ite (State.withEnc e)]
  rfl

theorem endReplay_withEnc (a : Byte) (c : BitVec 24) (s : State) :
    endReplay a c (s.withEnc e) = (endReplay a c s).withEnc e := by
  unfold endReplay
  rw [apply_ite (State.withEnc e), ← finishDecode_withEnc]
  rfl

theorem runReplay_withEnc (a : Byte) (c : BitVec 24) (s : State) :
    runReplay a c (s.withEnc e) = mapNext (State.withEnc e) (runReplay a c s) := by
  have hcomm : endReplay a c ∘ State.withEnc e = State.withEnc e ∘ endReplay a c :=
    funext (endReplay_withEnc e a c)
  calc runReplay a c (s.withEnc e)
      = mapNext (endReplay a c) (replay s.dec.spanLength (s.startReplay.withEnc e)) := runReplay_eq a c _
    _ = mapNext (endReplay a c) (mapNext (State.withEnc e) (replay s.dec.spanLength s.startReplay)) := by
        rw [replay_withEnc]
    _ = mapNext (State.withEnc e) (mapNext (endReplay a c) (replay s.dec.spanLength s.startReplay)) := by
        rw [mapNext_mapNext, hcomm, ← mapNext_mapNext]
    _ = mapNext (State.withEnc e) (runReplay a c s) := by rw [runReplay_eq]

theorem decodeExtensions_withEnc (a : Byte) (c : BitVec 24) (tail : List Byte) (s : State) :
    decodeExtensions a c tail (s.withEnc e) = mapNext (State.withEnc e) (decodeExtensions a c tail s) := by
  unfold decodeExtensions
  rw [apply_ite (mapNext _), apply_ite (mapNext _), apply_ite (mapNext _), ← runReplay_withEnc]
  rfl

end Replay

/-- The spans are scanned from the starting registers: only the encoder's registers of the old state remain. -/
theorem decodeSpans_clearWork (a : Byte) (c : BitVec 24) (body : List Byte) (s : State) :
    decodeSpans a c body s.clearWork = mapNext (State.withEnc EncRegs.start) (decodeSpans a c body s) := by
  unfold decodeSpans
  dsimp only
  rw [apply_ite (mapNext _), ← decodeExtensions_withEnc]
  rfl

/-! The commands, with the working registers cleared before and after. -/

theorem clearOutcome_mapNext_withEnc (e : EncRegs) (o : Host.Outcome State Fault Refusal) :
    clearOutcome (mapNext (State.withEnc e) o) = clearOutcome o := by
  cases o <;> rfl

/-- A test that both sides make is passed on to the two branches. -/
theorem clearOutcome_ite {p : Prop} [Decidable p] {o o' q q' : Host.Outcome State Fault Refusal}
    (ho : clearOutcome o = clearOutcome o') (hq : clearOutcome q = clearOutcome q') :
    clearOutcome (if p then o else q) = clearOutcome (if p then o' else q') := by
  split
  · exact ho
  · exact hq

theorem decodeHeader_clearWork (header : List Byte) (s : State) :
    clearOutcome (decodeHeader header s) = clearOutcome (decodeHeader header s.clearWork) := by
  unfold decodeHeader
  refine clearOutcome_ite rfl (clearOutcome_ite rfl ?_)
  simp only [clearWork_blen, clearWork_bbuf]
  split
  · rfl
  · rw [decodeSpans_clearWork, clearOutcome_mapNext_withEnc]

theorem execDecode_clearWork (s : State) : clearOutcome (execDecode s) = clearOutcome (execDecode s.clearWork) := by
  unfold execDecode
  refine clearOutcome_ite rfl (clearOutcome_ite rfl ?_)
  simp only [clearWork_bbuf]
  split
  · rfl
  · exact decodeHeader_clearWork _ s

theorem encodeFinish_clearWork (e : Encoder) (s : State) :
    (encodeFinish e s).clearWork = (encodeFinish e s.clearWork).clearWork := by
  unfold encodeFinish
  rw [apply_ite State.clearWork, apply_ite State.clearWork]
  rfl

theorem execEncode_clearWork (s : State) : clearOutcome (execEncode s) = clearOutcome (execEncode s.clearWork) := by
  unfold execEncode
  refine clearOutcome_ite rfl ?_
  simp only [clearWork_wlen, clearWork_wbuf]
  split
  · rfl
  · exact congrArg Host.Outcome.next (encodeFinish_clearWork _ s)

theorem execPack3_clearWork (s : State) :
    clearOutcome (execPack3 s) = clearOutcome (execPack3 s.clearWork) := by
  unfold execPack3
  refine clearOutcome_ite rfl ?_
  simp only [clearWork_e3len, clearWork_e3buf]
  split <;> rfl

theorem execPack5_clearWork (s : State) :
    clearOutcome (execPack5 s) = clearOutcome (execPack5 s.clearWork) := by
  unfold execPack5
  refine clearOutcome_ite rfl ?_
  simp only [clearWork_e5len, clearWork_e5buf]
  split <;> rfl

theorem execUnpack3_clearWork (s : State) :
    clearOutcome (execUnpack3 s) = clearOutcome (execUnpack3 s.clearWork) := by
  unfold execUnpack3
  refine clearOutcome_ite rfl ?_
  simp only [clearWork_blen, clearWork_bbuf]
  split <;> rfl

theorem execUnpack5_clearWork (s : State) :
    clearOutcome (execUnpack5 s) = clearOutcome (execUnpack5 s.clearWork) := by
  unfold execUnpack5
  refine clearOutcome_ite rfl ?_
  simp only [clearWork_blen, clearWork_bbuf]
  split <;> rfl

/-- Settles O51, command by command; the span codes, which do read the working registers, are no commands. -/
theorem commandsIgnoreTheWorkingRegisters : Obligations.CommandsIgnoreTheWorkingRegisters := by
  intro i s hi
  cases i
  case encode => exact execEncode_clearWork s
  case decode => exact execDecode_clearWork s
  case pack3 => exact execPack3_clearWork s
  case unpack3 => exact execUnpack3_clearWork s
  case pack5 => exact execPack5_clearWork s
  case unpack5 => exact execUnpack5_clearWork s
  case reserved0 | reserved7 => rfl
  case t | d1 | d2 | d3 | d4 | d5 | d6 | x => exact absurd hi (by decide)

end Sys2Proof.Machine
end

section
/-! PROOF. A command whose reads reach a cell nothing has written stops at the first such cell (10_state.md R27, U5). -/

namespace Sys2Proof.Machine

/-- A read of a range that holds an unwritten cell names the first one. -/
theorem Buf.readFrom_eq_error {w : Nat} {b : Buf w} {i n k : Nat} (hik : i ≤ k) (hkn : k < i + n)
    (hk : b.read k = none) (hbelow : ∀ j < k, b.read j ≠ none) : b.readFrom i n = .error k := by
  induction n generalizing i with
  | zero => omega
  | succ n ih =>
    by_cases hi : i = k
    · subst hi
      simp [Buf.readFrom, hk]
    · obtain ⟨v, hv⟩ := Option.ne_none_iff_exists'.mp (hbelow i (by omega))
      simp [Buf.readFrom, hv, ih (by omega : i + 1 ≤ k) (by omega)]

theorem Buf.readFrom_zero_eq_error {w : Nat} {b : Buf w} {n k : Nat} (hkn : k < n) (hk : b.read k = none)
    (hbelow : ∀ j < k, b.read j ≠ none) : b.readFrom 0 n = .error k :=
  Buf.readFrom_eq_error (Nat.zero_le k) (by omega) hk hbelow

/-! Each command, where the tests before its read pass. -/

theorem execEncode_fault {s : State} {i : Nat} (hw : exceeds s.wlen.toNat (capacity s.cfg .wbuf) = false)
    (hread : s.wbuf.readFrom 0 s.wlen.toNat = .error i) : execEncode s = .fault (.unwrittenCell .wbuf i) := by
  simp [execEncode, hw, hread]

theorem execPack3_fault {s : State} {i : Nat} (h3 : exceeds s.e3len s.cfg.e3cap = false)
    (hb : exceeds (pack3Size s.e3len) s.cfg.bcap = false) (hread : s.e3buf.readFrom 0 s.e3len = .error i) :
    execPack3 s = .fault (.unwrittenCell .e3buf i) := by
  simp [execPack3, h3, hb, hread]

theorem execPack5_fault {s : State} {i : Nat} (h5 : exceeds s.e5len s.cfg.e5cap = false)
    (hb : exceeds (pack5Size s.e5len) s.cfg.bcap = false) (hread : s.e5buf.readFrom 0 s.e5len = .error i) :
    execPack5 s = .fault (.unwrittenCell .e5buf i) := by
  simp [execPack5, h5, hb, hread]

theorem execUnpack3_fault {s : State} {i : Nat} (hb : exceeds s.blen s.cfg.bcap = false)
    (h3 : exceeds (unpackCount 3 s.blen) s.cfg.e3cap = false) (hread : s.bbuf.readFrom 0 s.blen = .error i) :
    execUnpack3 s = .fault (.unwrittenCell .bbuf i) := by
  simp [execUnpack3, hb, h3, hread]

theorem execUnpack5_fault {s : State} {i : Nat} (hb : exceeds s.blen s.cfg.bcap = false)
    (h5 : exceeds (unpackCount 5 s.blen) s.cfg.e5cap = false) (hread : s.bbuf.readFrom 0 s.blen = .error i) :
    execUnpack5 s = .fault (.unwrittenCell .bbuf i) := by
  simp [execUnpack5, hb, h5, hread]

/-- `DECODE` faults in its header. -/
theorem execDecode_fault_header {s : State} {i : Nat} (hb : exceeds s.blen s.cfg.bcap = false) (hlen : 4 ≤ s.blen)
    (hread : s.bbuf.readFrom 0 4 = .error i) : execDecode s = .fault (.unwrittenCell .bbuf i) := by
  simp [execDecode, hb, Nat.not_lt.mpr hlen, hread]

/-- `DECODE` faults after its header, where the count check and the capacity test of the spans pass. -/
theorem execDecode_fault_body {s : State} {header : List Byte} {i : Nat} (hb : exceeds s.blen s.cfg.bcap = false)
    (hlen : 4 ≤ s.blen) (hheader : s.bbuf.readFrom 0 4 = .ok header)
    (hcount : s.cfg.countPrecheck = false ∨ (headerCount header).toNat ≤ s.blen - 4)
    (h3 : exceeds (unpackCount 3 (s.blen - 4)) s.cfg.e3cap = false)
    (hread : s.bbuf.readFrom 4 (s.blen - 4) = .error i) : execDecode s = .fault (.unwrittenCell .bbuf i) := by
  have hcheck : ¬ (s.cfg.countPrecheck = true ∧ s.blen - 4 < (headerCount header).toNat) := by
    rintro ⟨hp, hlt⟩
    obtain hp' | hle := hcount
    · simp [hp] at hp'
    · omega
  have hrun : execDecode s = decodeHeader header s := by simp [execDecode, hb, Nat.not_lt.mpr hlen, hheader]
  rw [hrun, decodeHeader, if_neg hcheck]
  simp [h3, hread]

/-- Settles O52: the tests pass, and the first unwritten cell stops the read. -/
theorem unwrittenInputStopsTheCommand : Obligations.UnwrittenInputStopsTheCommand := by
  intro s i
  refine ⟨?encode, ?pack3, ?pack5, fun hb hnone hbelow => ⟨?unpack3, ?unpack5, ?header, ?body⟩⟩
  case encode =>
    intro hi hw hnone hbelow
    exact execEncode_fault (by simpa [capacity] using hw) (Buf.readFrom_zero_eq_error hi hnone hbelow)
  case pack3 =>
    intro hi h3 hb hnone hbelow
    exact execPack3_fault h3 hb (Buf.readFrom_zero_eq_error hi hnone hbelow)
  case pack5 =>
    intro hi h5 hb hnone hbelow
    exact execPack5_fault h5 hb (Buf.readFrom_zero_eq_error hi hnone hbelow)
  case unpack3 =>
    intro hi h3
    exact execUnpack3_fault hb h3 (Buf.readFrom_zero_eq_error hi hnone hbelow)
  case unpack5 =>
    intro hi h5
    exact execUnpack5_fault hb h5 (Buf.readFrom_zero_eq_error hi hnone hbelow)
  case header =>
    intro hi hlen
    exact execDecode_fault_header hb hlen (Buf.readFrom_zero_eq_error hi hnone hbelow)
  case body =>
    intro header h4 hi hhlen hholds hcount h3
    have hheader : s.bbuf.readFrom 0 4 = .ok header := hhlen ▸ hholds.readFrom
    exact execDecode_fault_body hb (by omega) hheader hcount h3
      (Buf.readFrom_eq_error h4 (by omega) hnone hbelow)

end Sys2Proof.Machine
end

section
/-! PROOF. The count in the header is big-endian, on decode and on encode (20_memory.md R61). -/

namespace Sys2Proof.Machine

/-- Three bytes in a row are the or of each at its own offset: bit `i` comes from the byte that holds it. -/
theorem append_append_eq_shiftLeft_or (b1 b2 b3 : Byte) :
    b1 ++ (b2 ++ b3) = (b1.setWidth 24 <<< 16) ||| (b2.setWidth 24 <<< 8) ||| b3.setWidth 24 := by
  ext i hi
  simp only [BitVec.getElem_append, BitVec.getElem_or, BitVec.getElem_shiftLeft, BitVec.getElem_setWidth]
  obtain hlow | hmid | hhigh : i < 8 ∨ (8 ≤ i ∧ i < 16) ∨ 16 ≤ i := by omega
  · simp [hlow, show i < 16 by omega]
  · simp [hmid, Nat.not_lt.mpr hmid.1, BitVec.getLsbD_eq_getElem (show i - 8 < 8 by omega)]
  · simp [Nat.not_lt.mpr hhigh, show ¬ i < 8 by omega, BitVec.getLsbD_of_ge b2 (i - 8) (by omega),
      BitVec.getLsbD_of_ge b3 i (by omega), BitVec.getLsbD_eq_getElem (show i - 16 < 8 by omega)]

theorem headerCount_eq_shiftLeft_or (b : List Byte) :
    headerCount b =
      ((b.getD 1 0).setWidth 24 <<< 16) ||| ((b.getD 2 0).setWidth 24 <<< 8) ||| (b.getD 3 0).setWidth 24 :=
  append_append_eq_shiftLeft_or _ _ _

theorem be24_eq_setWidth_ushiftRight (n : BitVec 24) :
    be24 n = [(n >>> 16).setWidth 8, (n >>> 8).setWidth 8, n.setWidth 8] := by
  rw [be24, BitVec.setWidth_ushiftRight_eq_extractLsb, BitVec.setWidth_ushiftRight_eq_extractLsb,
    BitVec.setWidth_eq_extractLsb' (by decide)]

/-- Settles O15: the bytes of the count at their offsets, read and written. -/
theorem countIsBigEndian : Obligations.CountIsBigEndian :=
  ⟨fun b _ => headerCount_eq_shiftLeft_or b,
    fun a count => congrArg (a :: ·) (be24_eq_setWidth_ushiftRight count),
    by decide⟩

end Sys2Proof.Machine
end

section
/-! PROOF. Sequences and their bit strings (30_encoding.md R95). A sequence of bytes and a sequence of elements are read
alike, as one string of bits; packing keeps every bit of it and unpacking every bit of the whole elements. The round trip
of a span program and the layouts of the strides are read off the string. -/

namespace Sys2Proof.Machine

/-! The bit string of a sequence. -/

/-- Bit p of the string of a sequence of `w`-bit values, bytes or elements; 0 above the last value. -/
def bitAt {w : Nat} (xs : List (BitVec w)) (p : Nat) : Bool :=
  (xs.getD (p / w) 0).getLsbD (p % w)

theorem bitAt_mul_add {w : Nat} (xs : List (BitVec w)) (j : Nat) {t : Nat} (ht : t < w) :
    bitAt xs (w * j + t) = (xs.getD j 0).getLsbD t := by
  have hdiv : (w * j + t) / w = j := by rw [Nat.mul_add_div (by omega), Nat.div_eq_of_lt ht, Nat.add_zero]
  have hmod : (w * j + t) % w = t := by rw [Nat.mul_add_mod, Nat.mod_eq_of_lt ht]
  rw [bitAt, hdiv, hmod]

theorem bitAt_of_le {w : Nat} {xs : List (BitVec w)} {p : Nat} (hp : w * xs.length ≤ p) : bitAt xs p = false := by
  obtain rfl | hw := Nat.eq_zero_or_pos w
  · exact BitVec.getLsbD_of_ge _ _ (Nat.zero_le _)
  · have hdiv : xs.length ≤ p / w := (Nat.le_div_iff_mul_le hw).mpr (Nat.mul_comm w _ ▸ hp)
    simp [bitAt, List.getElem?_eq_none hdiv]

/-- A sequence is determined by its length and its bit string. -/
theorem eq_of_bitAt_eq {w : Nat} {xs ys : List (BitVec w)} (hlen : xs.length = ys.length)
    (h : ∀ p < w * ys.length, bitAt xs p = bitAt ys p) : xs = ys := by
  refine List.ext_getElem hlen fun j hx hy => BitVec.eq_of_getLsbD_eq fun t ht => ?_
  have hp : w * j + t < w * ys.length :=
    calc w * j + t < w * j + w := by omega
      _ = w * (j + 1) := (Nat.mul_succ w j).symm
      _ ≤ w * ys.length := Nat.mul_le_mul_left w hy
  have hbit := h _ hp
  rwa [bitAt_mul_add _ _ ht, bitAt_mul_add _ _ ht, List.getD_eq_getElem _ _ hx, List.getD_eq_getElem _ _ hy] at hbit

theorem bitAt_append {w : Nat} (xs ys : List (BitVec w)) (p : Nat) :
    bitAt (xs ++ ys) p = if p < w * xs.length then bitAt xs p else bitAt ys (p - w * xs.length) := by
  obtain rfl | hw := Nat.eq_zero_or_pos w
  · simp [bitAt]
  split
  · next hp =>
    have hdiv : p / w < xs.length := Nat.div_lt_of_lt_mul hp
    rw [bitAt, bitAt, List.getD_append _ _ _ _ hdiv]
  · next hp =>
    obtain ⟨q, rfl⟩ := Nat.exists_eq_add_of_le (Nat.not_lt.mp hp)
    have hdiv : (w * xs.length + q) / w = xs.length + q / w := Nat.mul_add_div hw _ _
    rw [bitAt, bitAt, hdiv, Nat.mul_add_mod, Nat.add_sub_cancel_left,
      List.getD_append_right _ _ _ _ (Nat.le_add_right _ _), Nat.add_sub_cancel_left]

theorem bitAt_replicate_zero (w k p : Nat) : bitAt (List.replicate k (0 : BitVec w)) p = false := by
  simp only [bitAt, List.getD_eq_getElem?_getD, List.getElem?_replicate]
  split <;> simp

/-- Elements of value 0 at the end do not show in the bit string. -/
theorem bitAt_append_replicate_zero {w : Nat} (xs : List (BitVec w)) (k p : Nat) :
    bitAt (xs ++ List.replicate k 0) p = bitAt xs p := by
  rw [bitAt_append, bitAt_replicate_zero]
  split
  · rfl
  · next hp => exact (bitAt_of_le (Nat.not_lt.mp hp)).symm

theorem bitAt_take {w : Nat} (xs : List (BitVec w)) {n p : Nat} (hp : p < w * n) : bitAt (xs.take n) p = bitAt xs p := by
  have hdiv : p / w < n := Nat.div_lt_of_lt_mul hp
  simp [bitAt, List.getElem?_take_of_lt hdiv]

/-! Packing and unpacking keep the bit string. -/

theorem le_packedLen (w n : Nat) : w * n ≤ 8 * packedLen w n := by
  unfold packedLen
  omega

/-- 30_encoding.md R95: the packed bytes have the bit string of the elements, and 0 above it. -/
theorem bitAt_packElements {w : Nat} (hw : 0 < w) (xs : List (BitVec w)) (p : Nat) :
    bitAt (packElements xs) p = bitAt xs p := by
  obtain hp | hp := Nat.lt_or_ge p (8 * packedLen w xs.length)
  · calc bitAt (packElements xs) p
        = (packString xs).2.testBit (8 * (p / 8) + p % 8) :=
          stringBytes_getLsbD _ _ _ _ (Nat.div_lt_of_lt_mul hp) (Nat.mod_lt _ (by decide))
      _ = bitAt xs p := by rw [Nat.div_add_mod, packString_testBit hw, bitAt]
  · rw [bitAt_of_le (packElements_length xs ▸ hp), bitAt_of_le ((le_packedLen w xs.length).trans hp)]

/-- Element j is the w bits of the byte string from bit w*j on (42_pack3.md R193). -/
theorem unpackElements_getElem (w : Nat) (bs : List Byte) (j : Nat) (h : j < (unpackElements w bs).1.length) :
    (unpackElements w bs).1[j] = BitVec.ofNat w (bytesString bs >>> (w * j)) := by
  have helem := takeElements_getElem w (bytesString bs) (unpackCount w bs.length) PackRegs.start j h
  rwa [show PackRegs.start.bc + w * j = w * j from Nat.zero_add _] at helem

/-- 42_pack3.md R193, 43_pack5.md R214: the unpacked elements have the bit string of the bytes, as far as they reach. -/
theorem bitAt_unpackElements {w : Nat} (bs : List Byte) {p : Nat} (hp : p < w * unpackCount w bs.length) :
    bitAt (unpackElements w bs).1 p = bitAt bs p := by
  have hw : 0 < w := Nat.pos_of_mul_pos_right (Nat.zero_lt_of_lt hp)
  have hlt : p / w < (unpackElements w bs).1.length := by
    rw [unpackElements_length]
    exact Nat.div_lt_of_lt_mul hp
  rw [bitAt, List.getD_eq_getElem _ _ hlt, unpackElements_getElem, BitVec.getLsbD_ofNat,
    Nat.testBit_shiftRight, Nat.div_add_mod, bytesString_testBit, bitAt]
  simp [Nat.mod_lt p hw]

theorem packElements_eq_of_bitAt {w : Nat} (hw : 0 < w) {xs : List (BitVec w)} {bs : List Byte}
    (hlen : packedLen w xs.length = bs.length) (h : ∀ p < 8 * bs.length, bitAt xs p = bitAt bs p) :
    packElements xs = bs :=
  eq_of_bitAt_eq (by rw [packElements_length, hlen]) fun p hp => (bitAt_packElements hw xs p).trans (h p hp)

theorem unpackElements_eq_of_bitAt {w : Nat} {bs : List Byte} {xs : List (BitVec w)}
    (hlen : unpackCount w bs.length = xs.length) (h : ∀ p < w * xs.length, bitAt bs p = bitAt xs p) :
    (unpackElements w bs).1 = xs :=
  eq_of_bitAt_eq (by rw [unpackElements_length, hlen]) fun p hp =>
    (bitAt_unpackElements bs (by rwa [hlen])).trans (h p hp)

/-- Settles O40: the bit string of the packed bytes is that of the elements. -/
theorem packedBitsFollowTheBitString : Obligations.PackedBitsFollowTheBitString := by
  intro w xs hw
  refine ⟨packElements_length xs, fun p _ => ?_⟩
  have hbit : bitAt (packElements xs) p = bitAt xs p := bitAt_packElements (by omega) xs p
  split
  · exact hbit
  · next hp => exact hbit.trans (bitAt_of_le (Nat.not_lt.mp hp))

/-! The round trip. -/

theorem le_unpackCount_packedLen {w : Nat} (hw : 0 < w) (n : Nat) : n ≤ unpackCount w (packedLen w n) :=
  (Nat.le_div_iff_mul_le hw).mpr (Nat.mul_comm w n ▸ le_packedLen w n)

/-- 42_pack3.md R194, 43_pack5.md R216: unpacking returns the packed sequence and the zeros that the pad bits look like. -/
theorem unpackElements_packElements {w : Nat} (hw : 0 < w) (xs : List (BitVec w)) :
    (unpackElements w (packElements xs)).1 =
      xs ++ List.replicate (unpackCount w (packedLen w xs.length) - xs.length) 0 := by
  have hle := le_unpackCount_packedLen hw xs.length
  refine unpackElements_eq_of_bitAt ?_ fun p _ => ?_
  · simp only [packElements_length, List.length_append, List.length_replicate]
    omega
  · rw [bitAt_packElements hw, bitAt_append_replicate_zero]

end Sys2Proof.Machine

namespace Sys2Proof

/-! The words of instructions. -/

/-- 30_encoding.md R96, R104, R105: the word of every instruction decodes in the instruction's own format. -/
theorem decodeWord_format_encode : ∀ i : Instr, decodeWord i.format (encode i) = i
  | .t => Laws.WordRoundTrip.t
  | .d1 => Laws.WordRoundTrip.d1
  | .d2 => Laws.WordRoundTrip.d2
  | .d3 => Laws.WordRoundTrip.d3
  | .d4 => Laws.WordRoundTrip.d4
  | .d5 => Laws.WordRoundTrip.d5
  | .d6 => Laws.WordRoundTrip.d6
  | .x => Laws.WordRoundTrip.x
  | .encode => Laws.WordRoundTrip.encode
  | .decode => Laws.WordRoundTrip.decode
  | .pack3 => Laws.WordRoundTrip.pack3
  | .unpack3 => Laws.WordRoundTrip.unpack3
  | .pack5 => Laws.WordRoundTrip.pack5
  | .unpack5 => Laws.WordRoundTrip.unpack5
  | .reserved0 => Laws.WordRoundTrip.reserved0
  | .reserved7 => Laws.WordRoundTrip.reserved7

theorem decodeWord_encode {f : Format} {i : Instr} (hi : i.wellFormed f = true) : decodeWord f (encode i) = i := by
  obtain rfl : i.format = f := of_decide_eq_true hi
  exact decodeWord_format_encode i

theorem decodeWord_wellFormed (f : Format) (c : BitVec 3) : (decodeWord f c).wellFormed f = true := by
  revert c
  cases f <;> decide

theorem encode_decodeWord (f : Format) (c : BitVec 3) : encode (decodeWord f c) = c := by
  revert c
  cases f <;> decide

theorem decodeNat_of_lt (f : Format) {v : Nat} (hv : v < 8) : decodeNat f v = .ok (decodeWord f (BitVec.ofNat 3 v)) :=
  if_pos hv

theorem decodeNat_of_le (f : Format) {v : Nat} (hv : 8 ≤ v) : decodeNat f v = .error (.tooWide v) :=
  if_neg (Nat.not_lt.mpr hv)

/-- A byte below 8 decodes as the 3-bit word it holds. -/
theorem decodeBytes_setWidth (f : Format) (c : BitVec 3) (rest : List Byte) :
    decodeBytes f (c.setWidth 8 :: rest) = .ok (decodeWord f c, rest) := by
  have hc : (c.setWidth 8).toNat = c.toNat := BitVec.toNat_setWidth_of_le (by decide)
  rw [decodeBytes, hc, decodeNat_of_lt f c.isLt, BitVec.ofNat_toNat, BitVec.setWidth_eq]

/-- Settles O12: the two maps invert each other, on words and on bytes. -/
theorem instructionWordsAreOneToOne : Obligations.InstructionWordsAreOneToOne := fun f =>
  ⟨fun i hi =>
      have hword : decodeWord f (encode i) = i := decodeWord_encode hi
      ⟨hword, by rw [decodeBytes_setWidth, hword]⟩,
    fun c => ⟨decodeWord_wellFormed f c, encode_decodeWord f c⟩⟩

/-- Settles O11: seven bytes that hold a word of the maps, and the byte of value 8, which is too wide. -/
theorem opcodeWordsDecode : Obligations.OpcodeWordsDecode :=
  ⟨decodeBytes_setWidth .span3 0b000#3 [], decodeBytes_setWidth .span3 0b110#3 [],
    decodeBytes_setWidth .span3 0b111#3 [], decodeBytes_setWidth .cmd 0b001#3 [], decodeBytes_setWidth .cmd 0b010#3 [],
    decodeBytes_setWidth .cmd 0b110#3 [], decodeBytes_setWidth .cmd 0b111#3 [], rfl⟩

end Sys2Proof

namespace Sys2Proof.Machine

theorem map_decodeSpan_encode {p : List Instr} (hp : spanProgram p = true) : (p.map encode).map decodeSpan = p := by
  have hall : ∀ i ∈ p, i.wellFormed .span3 = true := List.all_eq_true.mp hp
  rw [List.map_map]
  exact (List.map_congr_left fun i hi => decodeWord_encode (hall i hi)).trans (List.map_id p)

/-- Settles O13: the round trip of the packers on the words of the program; a pad element of value 0 is a terminator. -/
theorem spanProgramsSurvivePacking : Obligations.SpanProgramsSurvivePacking := by
  intro p hp
  have hwords : unpack3 (pack3 (p.map encode)) =
      p.map encode ++ List.replicate (unpackCount 3 (pack3Size p.length) - p.length) 0 := by
    simpa [unpack3, pack3, pack3Size_eq] using unpackElements_packElements (by decide) (p.map encode)
  rw [hwords, List.map_append, map_decodeSpan_encode hp, List.map_replicate]
  rfl

end Sys2Proof.Machine
end

section
/-! PROOF. The layouts of the strides (30_encoding.md R98 to R103), derived from R95 as the spec derives them: eight elements
of `w` bits are `w` whole bytes, so a stride packs and unpacks apart from what follows, and a partial stride is a full one,
cut. That the bytes of one full stride are those of the formulas is compared bit by bit. -/

namespace Sys2Proof.Machine

/-! A full stride apart from what follows, and a cut one. -/

theorem packedLen_eight (w : Nat) : packedLen w 8 = w := by
  unfold packedLen
  omega

theorem packedLen_eight_add (w n : Nat) : packedLen w (8 + n) = w + packedLen w n := by
  unfold packedLen
  rw [Nat.mul_add]
  omega

theorem unpackCount_self {w : Nat} (hw : 0 < w) : unpackCount w w = 8 :=
  Nat.mul_div_cancel 8 hw

theorem unpackCount_add {w : Nat} (hw : 0 < w) (n : Nat) : unpackCount w (w + n) = 8 + unpackCount w n := by
  unfold unpackCount
  rw [Nat.mul_add, Nat.mul_comm 8 w, Nat.mul_add_div hw]

theorem packElements_stride_append {w : Nat} (hw : 0 < w) {stride : List (BitVec w)} (h8 : stride.length = 8)
    (rest : List (BitVec w)) : packElements (stride ++ rest) = packElements stride ++ packElements rest := by
  refine packElements_eq_of_bitAt hw ?_ fun p _ => ?_
  · simp only [List.length_append, packElements_length, h8, packedLen_eight_add, packedLen_eight]
  · simp only [bitAt_append, bitAt_packElements hw, packElements_length, h8, packedLen_eight, Nat.mul_comm 8 w]

theorem unpackElements_stride_append {w : Nat} (hw : 0 < w) {stride : List Byte} (hlen : stride.length = w)
    (rest : List Byte) :
    (unpackElements w (stride ++ rest)).1 = (unpackElements w stride).1 ++ (unpackElements w rest).1 := by
  refine unpackElements_eq_of_bitAt ?_ fun p hp => ?_
  · simp [hlen, unpackCount_add hw, unpackCount_self hw]
  · simp only [List.length_append, unpackElements_length, hlen, unpackCount_self hw, Nat.mul_add] at hp
    simp only [bitAt_append, unpackElements_length, hlen, unpackCount_self hw, Nat.mul_comm w 8]
    split
    · exact (bitAt_unpackElements stride (by rwa [hlen, unpackCount_self hw, Nat.mul_comm])).symm
    · exact (bitAt_unpackElements rest (by omega)).symm

/-- A partial stride packs as the stride filled up with elements of value 0, cut to the minimum number of bytes. -/
theorem packElements_eq_take {w : Nat} (hw : 0 < w) (xs : List (BitVec w)) (k : Nat) :
    packElements xs = (packElements (xs ++ List.replicate k 0)).take (packedLen w xs.length) := by
  have hle : packedLen w xs.length ≤ packedLen w (xs.length + k) := by
    have := Nat.mul_add w xs.length k
    unfold packedLen
    omega
  refine packElements_eq_of_bitAt hw ?_ fun p hp => ?_
  · simp [hle]
  · have hlt : p < 8 * packedLen w xs.length := hp.trans_le (Nat.mul_le_mul_left 8 (by simp))
    rw [bitAt_take _ hlt, bitAt_packElements hw, bitAt_append_replicate_zero]

/-- The first bytes of a stride unpack to the first elements of the stride, whatever follows. -/
theorem unpackElements_eq_take {w : Nat} (bs more : List Byte) :
    (unpackElements w bs).1 = ((unpackElements w (bs ++ more)).1).take (unpackCount w bs.length) := by
  have hle : unpackCount w bs.length ≤ unpackCount w (bs.length + more.length) := Nat.div_le_div_right (by omega)
  refine unpackElements_eq_of_bitAt ?_ fun p hp => ?_
  · simp [hle]
  · have hlt : p < w * unpackCount w bs.length := hp.trans_le (Nat.mul_le_mul_left w (by simp))
    have hbyte : p < 8 * bs.length := hlt.trans_le (Nat.mul_div_le (8 * bs.length) w)
    have hmore : p < w * unpackCount w (bs ++ more).length :=
      hlt.trans_le (Nat.mul_le_mul_left w (List.length_append ▸ hle))
    rw [bitAt_take _ hlt, bitAt_unpackElements _ hmore, bitAt_append, if_pos hbyte]

/-! The formulas of one full stride: at each bit position both sides name the same bit of the same value. -/

/-- 30_encoding.md R98, one full stride. -/
theorem pack3_stride (e0 e1 e2 e3 e4 e5 e6 e7 : Span) :
    let z := fun (e : Span) => (e.setWidth 8 : Byte)
    pack3 [e0, e1, e2, e3, e4, e5, e6, e7] =
      [z e0 ||| (z e1 <<< 3) ||| ((z e2 &&& 0x03) <<< 6),
        ((z e2 &&& 0x04) >>> 2) ||| (z e3 <<< 1) ||| (z e4 <<< 4) ||| ((z e5 &&& 0x01) <<< 7),
        ((z e5 &&& 0x06) >>> 1) ||| (z e6 <<< 2) ||| (z e7 <<< 5)] := by
  refine packElements_eq_of_bitAt (by decide) (by simp [packedLen]) fun p hp => ?_
  simp only [List.length_cons, List.length_nil] at hp
  interval_cases p <;>
    simp only [bitAt, Nat.reduceDiv, Nat.reduceMod, List.getD_cons_zero, List.getD_cons_succ] <;> simp

/-- 30_encoding.md R100, one full stride. -/
theorem pack5_stride (e0 e1 e2 e3 e4 e5 e6 e7 : Ext) :
    let z := fun (e : Ext) => (e.setWidth 8 : Byte)
    pack5 [e0, e1, e2, e3, e4, e5, e6, e7] =
      [z e0 ||| ((z e1 &&& 0x07) <<< 5),
        ((z e1 &&& 0x18) >>> 3) ||| (z e2 <<< 2) ||| ((z e3 &&& 0x01) <<< 7),
        ((z e3 &&& 0x1E) >>> 1) ||| ((z e4 &&& 0x0F) <<< 4),
        ((z e4 &&& 0x10) >>> 4) ||| (z e5 <<< 1) ||| ((z e6 &&& 0x03) <<< 6),
        ((z e6 &&& 0x1C) >>> 2) ||| (z e7 <<< 3)] := by
  refine packElements_eq_of_bitAt (by decide) (by simp [packedLen]) fun p hp => ?_
  simp only [List.length_cons, List.length_nil] at hp
  interval_cases p <;>
    simp only [bitAt, Nat.reduceDiv, Nat.reduceMod, List.getD_cons_zero, List.getD_cons_succ] <;> simp

/-- 30_encoding.md R103, one full stride. -/
theorem unpack3_stride (b0 b1 b2 : Byte) :
    unpack3 [b0, b1, b2] =
      [b0 &&& 0x07, (b0 >>> 3) &&& 0x07, (b0 >>> 6) ||| ((b1 &&& 0x01) <<< 2), (b1 >>> 1) &&& 0x07, (b1 >>> 4) &&& 0x07,
        (b1 >>> 7) ||| ((b2 &&& 0x03) <<< 1), (b2 >>> 2) &&& 0x07, (b2 >>> 5) &&& 0x07].map
          (fun b => (b.setWidth 3 : Span)) := by
  refine unpackElements_eq_of_bitAt (by simp [unpackCount]) fun p hp => ?_
  simp only [List.length_map, List.length_cons, List.length_nil] at hp
  interval_cases p <;>
    simp only [bitAt, Nat.reduceDiv, Nat.reduceMod, List.map_cons, List.getD_cons_zero, List.getD_cons_succ] <;> simp

/-- 30_encoding.md R103, one full stride. -/
theorem unpack5_stride (b0 b1 b2 b3 b4 : Byte) :
    unpack5 [b0, b1, b2, b3, b4] =
      [b0 &&& 0x1F, (b0 >>> 5) ||| ((b1 &&& 0x03) <<< 3), (b1 >>> 2) &&& 0x1F, (b1 >>> 7) ||| ((b2 &&& 0x0F) <<< 1),
        (b2 >>> 4) ||| ((b3 &&& 0x01) <<< 4), (b3 >>> 1) &&& 0x1F, (b3 >>> 6) ||| ((b4 &&& 0x07) <<< 2),
        (b4 >>> 3) &&& 0x1F].map (fun b => (b.setWidth 5 : Ext)) := by
  refine unpackElements_eq_of_bitAt (by simp [unpackCount]) fun p hp => ?_
  simp only [List.length_map, List.length_cons, List.length_nil] at hp
  interval_cases p <;>
    simp only [bitAt, Nat.reduceDiv, Nat.reduceMod, List.map_cons, List.getD_cons_zero, List.getD_cons_succ] <;> simp

/-! The same for the two widths of the block, and the statements. -/

theorem pack3_stride_append (e0 e1 e2 e3 e4 e5 e6 e7 : Span) (rest : List Span) :
    pack3 (e0 :: e1 :: e2 :: e3 :: e4 :: e5 :: e6 :: e7 :: rest) =
      pack3 [e0, e1, e2, e3, e4, e5, e6, e7] ++ pack3 rest :=
  packElements_stride_append (by decide) (stride := [e0, e1, e2, e3, e4, e5, e6, e7]) rfl rest

theorem pack5_stride_append (e0 e1 e2 e3 e4 e5 e6 e7 : Ext) (rest : List Ext) :
    pack5 (e0 :: e1 :: e2 :: e3 :: e4 :: e5 :: e6 :: e7 :: rest) =
      pack5 [e0, e1, e2, e3, e4, e5, e6, e7] ++ pack5 rest :=
  packElements_stride_append (by decide) (stride := [e0, e1, e2, e3, e4, e5, e6, e7]) rfl rest

theorem unpack3_stride_append (b0 b1 b2 : Byte) (rest : List Byte) :
    unpack3 (b0 :: b1 :: b2 :: rest) = unpack3 [b0, b1, b2] ++ unpack3 rest :=
  unpackElements_stride_append (w := 3) (by decide) (stride := [b0, b1, b2]) rfl rest

theorem unpack5_stride_append (b0 b1 b2 b3 b4 : Byte) (rest : List Byte) :
    unpack5 (b0 :: b1 :: b2 :: b3 :: b4 :: rest) = unpack5 [b0, b1, b2, b3, b4] ++ unpack5 rest :=
  unpackElements_stride_append (w := 5) (by decide) (stride := [b0, b1, b2, b3, b4]) rfl rest

theorem pack3_eq_take (xs : List Span) (k : Nat) :
    pack3 xs = (pack3 (xs ++ List.replicate k 0)).take (packedLen 3 xs.length) :=
  packElements_eq_take (by decide) xs k

theorem pack5_eq_take (xs : List Ext) (k : Nat) :
    pack5 xs = (pack5 (xs ++ List.replicate k 0)).take (packedLen 5 xs.length) :=
  packElements_eq_take (by decide) xs k

theorem unpack3_eq_take (bs more : List Byte) : unpack3 bs = (unpack3 (bs ++ more)).take (unpackCount 3 bs.length) :=
  unpackElements_eq_take bs more

theorem unpack5_eq_take (bs more : List Byte) : unpack5 bs = (unpack5 (bs ++ more)).take (unpackCount 5 bs.length) :=
  unpackElements_eq_take bs more

/-- Settles O42: a full stride before what follows, and each partial stride as a full one cut. -/
theorem threeBitStrideLayouts : Obligations.ThreeBitStrideLayouts := by
  intro e0 e1 e2 e3 e4 e5 e6 e7
  refine ⟨fun rest => ?_, rfl, ?_, ?_, ?_, ?_, ?_, ?_, ?_⟩
  · rw [pack3_stride_append, pack3_stride]
    rfl
  · simp [pack3_eq_take [e0] 7, pack3_stride, packedLen]
  · simp [pack3_eq_take [e0, e1] 6, pack3_stride, packedLen]
  · simp [pack3_eq_take [e0, e1, e2] 5, pack3_stride, packedLen]
  · simp [pack3_eq_take [e0, e1, e2, e3] 4, pack3_stride, packedLen]
  · simp [pack3_eq_take [e0, e1, e2, e3, e4] 3, pack3_stride, packedLen]
  · simp [pack3_eq_take [e0, e1, e2, e3, e4, e5] 2, pack3_stride, packedLen]
  · simp [pack3_eq_take [e0, e1, e2, e3, e4, e5, e6] 1, pack3_stride, packedLen]

/-- Settles O43: a full stride before what follows, and each partial stride as a full one cut. -/
theorem fiveBitStrideLayouts : Obligations.FiveBitStrideLayouts := by
  intro e0 e1 e2 e3 e4 e5 e6 e7
  refine ⟨fun rest => ?_, rfl, ?_, ?_, ?_, ?_, ?_, ?_, ?_⟩
  · rw [pack5_stride_append, pack5_stride]
    rfl
  · simp [pack5_eq_take [e0] 7, pack5_stride, packedLen]
  · simp [pack5_eq_take [e0, e1] 6, pack5_stride, packedLen]
  · simp [pack5_eq_take [e0, e1, e2] 5, pack5_stride, packedLen]
  · simp [pack5_eq_take [e0, e1, e2, e3] 4, pack5_stride, packedLen]
  · simp [pack5_eq_take [e0, e1, e2, e3, e4] 3, pack5_stride, packedLen]
  · simp [pack5_eq_take [e0, e1, e2, e3, e4, e5] 2, pack5_stride, packedLen]
  · simp [pack5_eq_take [e0, e1, e2, e3, e4, e5, e6] 1, pack5_stride, packedLen]

/-- Settles O44: a full stride before what follows, and each tail as a full stride cut. -/
theorem strideExtraction : Obligations.StrideExtraction := by
  refine ⟨fun b0 b1 b2 => ⟨fun rest => ?_, ?_, ?_⟩, fun b0 b1 b2 b3 b4 => ⟨fun rest => ?_, ?_, ?_, ?_, ?_⟩⟩
  · rw [unpack3_stride_append, unpack3_stride]
  · simp [unpack3_eq_take [b0, b1] [b2], unpack3_stride, unpackCount]
  · simp [unpack3_eq_take [b0] [b1, b2], unpack3_stride, unpackCount]
  · rw [unpack5_stride_append, unpack5_stride]
  · simp [unpack5_eq_take [b0, b1, b2, b3] [b4], unpack5_stride, unpackCount]
  · simp [unpack5_eq_take [b0, b1, b2] [b3, b4], unpack5_stride, unpackCount]
  · simp [unpack5_eq_take [b0, b1] [b2, b3, b4], unpack5_stride, unpackCount]
  · simp [unpack5_eq_take [b0] [b1, b2, b3, b4], unpack5_stride, unpackCount]

end Sys2Proof.Machine
end

section
/-! PROOF. The pseudo-instruction `SET` (30_encoding.md R109), and the step at a write of `CMD` (R104, R105). -/

namespace Sys2Proof

/-! `SET`. -/

theorem setDistance_of_lt {d : Nat} (hd : d < 7) : setDistance d = (BitVec.ofNat 3 d, none) :=
  if_neg (Nat.not_le.mpr hd)

theorem setDistance_of_le {d : Nat} (hd : 7 ≤ d) : setDistance d = (7, some (BitVec.ofNat 5 (d - 7))) :=
  if_pos hd

theorem decodeSpan_mem_literals : ∀ c : Span, 1 ≤ c.toNat → c.toNat ≤ 6 →
    decodeSpan c ∈ [Instr.d1, .d2, .d3, .d4, .d5, .d6] := by
  decide

/-- Settles O14: the literal of the distance below the escape value, the escape with the surplus from it on. -/
theorem setExpandsToTheCodeOfTheDistance : Obligations.SetExpandsToTheCodeOfTheDistance := by
  intro d
  refine ⟨fun hd => ?_, fun hd => ?_, fun hd => if_neg (by omega)⟩
  · have hc : (BitVec.ofNat 3 d).toNat = d := by
      rw [BitVec.toNat_ofNat]
      omega
    refine ⟨decodeSpan (BitVec.ofNat 3 d), ?_, ?_, ?_⟩
    · rw [expandSet, if_pos (by omega), setDistance_of_lt (by omega)]
    · exact decodeSpan_mem_literals _ (by omega) (by omega)
    · exact (congrArg BitVec.toNat (encode_decodeWord .span3 (BitVec.ofNat 3 d))).trans hc
  · refine ⟨BitVec.ofNat 5 (d - 7), ?_, ?_⟩
    · rw [expandSet, if_pos (by omega), setDistance_of_le hd.1]
      rfl
    · rw [BitVec.toNat_ofNat]
      omega

end Sys2Proof

namespace Sys2Proof.Machine

/-! The step at a write of `CMD`. -/

/-- A value of 3 bits written to `CMD` runs the command it decodes to (30_encoding.md R104). -/
theorem step_command {s : State} {v : Nat} {rest : List HostAct} {i : Instr} (hr : s.replaying = false)
    (hi : s.input = .writeReg .cmd v :: rest) (hd : decodeNat .cmd v = .ok i) :
    step s = exec i { s with input := rest } := by
  simp [step, hr, fetch, hi, hd]

/-- A wider value written to `CMD` starts nothing (log 11). -/
theorem step_command_tooWide {s : State} {v : Nat} {rest : List HostAct} (hr : s.replaying = false)
    (hi : s.input = .writeReg .cmd v :: rest) (hv : 8 ≤ v) : step s = .refused (.registerValueTooWide .cmd v) := by
  simp [step, hr, fetch, hi, decodeNat_of_le .cmd hv]

theorem decodeNat_wellFormed {f : Format} {v : Nat} {i : Instr} (h : decodeNat f v = .ok i) :
    i.wellFormed f = true := by
  obtain hv | hv := Nat.lt_or_ge v 8
  · rw [decodeNat_of_lt f hv] at h
    obtain rfl := Except.ok.inj h
    exact decodeWord_wellFormed f _
  · rw [decodeNat_of_le f hv] at h
    cases h

/-- Settles O4: the values below 8 decode to commands, which the step runs; the others it refuses. -/
theorem stepRunsTheCommandWritten : Obligations.StepRunsTheCommandWritten := fun _ _ _ hr hi =>
  ⟨fun _ hd => ⟨decodeNat_wellFormed hd, step_command hr hi hd⟩,
    fun hv => ⟨_, decodeNat_of_lt .cmd hv⟩,
    step_command_tooWide hr hi⟩

/-- Settles O48: both reserved commands set the status alone, and 0 and 7 decode to them. -/
theorem reservedCommandsChangeOnlyStatus : Obligations.ReservedCommandsChangeOnlyStatus := by
  refine ⟨fun s => ⟨rfl, rfl⟩, rfl, fun s v rest hr hi hv => ?_⟩
  obtain rfl | rfl := hv
  · exact step_command hr hi (i := .reserved0) rfl
  · exact step_command hr hi (i := .reserved7) rfl

end Sys2Proof.Machine
end

section
/-! PROOF. The transform as a function of the deltas (40_span_encoder.md R131 to R137). The encoder's cursors are taken out
of the picture first: the run of a delta is the codes of its distances, the gaps between its set positions, and the
terminator. The facts of R137 are then facts about lists of distances. -/

namespace Sys2Proof.Machine

/-! Distances. -/

/-- The gaps between the positions of a rising list, the first one from `last` (40_span_encoder.md R133). -/
def gaps : Nat → List Nat → List Nat
  | _, [] => []
  | last, p :: ps => (p - last) :: gaps p ps

/-- The set positions of a delta, rising (R133). -/
def setPositions (d : Word) : List Nat :=
  positions.filter (fun p => d.getLsbD (p - 1))

/-- The distances that the scan of a delta emits (R133). -/
def distances (d : Word) : List Nat :=
  gaps 0 (setPositions d)

@[simp] theorem gaps_length (last : Nat) (ps : List Nat) : (gaps last ps).length = ps.length := by
  induction ps generalizing last with
  | nil => rfl
  | cons p ps ih => simp [gaps, ih]

theorem gaps_pos {last : Nat} {ps : List Nat} (h : (last :: ps).Pairwise (· < ·)) : ∀ k ∈ gaps last ps, 1 ≤ k := by
  induction ps generalizing last with
  | nil => simp [gaps]
  | cons p ps ih =>
    obtain ⟨hlast, hps⟩ := List.pairwise_cons.mp h
    have hp : last < p := hlast p List.mem_cons_self
    intro k hk
    obtain rfl | hk := List.mem_cons.mp hk
    · omega
    · exact ih hps k hk

/-- The gaps sum up to the last position, which is the greatest. -/
theorem gaps_sum {last : Nat} {ps : List Nat} (h : (last :: ps).Pairwise (· < ·)) :
    last + (gaps last ps).sum ∈ last :: ps ∧ ∀ p ∈ last :: ps, p ≤ last + (gaps last ps).sum := by
  induction ps generalizing last with
  | nil => simp [gaps]
  | cons p ps ih =>
    obtain ⟨hlast, hps⟩ := List.pairwise_cons.mp h
    have hp : last < p := hlast p List.mem_cons_self
    obtain ⟨hmem, hle⟩ := ih hps
    have hsum : last + (gaps last (p :: ps)).sum = p + (gaps p ps).sum := by
      rw [gaps, List.sum_cons]
      omega
    rw [hsum]
    refine ⟨List.mem_cons_of_mem _ hmem, fun q hq => ?_⟩
    obtain rfl | hq := List.mem_cons.mp hq
    · omega
    · exact hle q hq

theorem mem_setPositions {d : Word} {p : Nat} : p ∈ setPositions d ↔ ∃ i < 32, d.getLsbD i = true ∧ p = i + 1 := by
  simp only [setPositions, positions, wordW, List.mem_filter, List.mem_map, List.mem_range]
  constructor
  · rintro ⟨⟨i, hi, rfl⟩, hbit⟩
    exact ⟨i, hi, hbit, rfl⟩
  · rintro ⟨i, hi, hbit, rfl⟩
    exact ⟨⟨i, hi, rfl⟩, hbit⟩

theorem setPositions_rise (d : Word) : (0 :: setPositions d).Pairwise (· < ·) := by
  have hrange : (0 :: positions).Pairwise (· < ·) := by
    rw [positions, ← List.range_succ_eq_map]
    exact List.pairwise_lt_range
  exact hrange.sublist (List.filter_sublist.cons_cons 0)

/-- The position of the highest set bit is a set position, and none is above it. -/
theorem highest_setPosition {d : Word} (hd : d ≠ 0) :
    Nat.log2 d.toNat + 1 ∈ setPositions d ∧ ∀ p ∈ setPositions d, p ≤ Nat.log2 d.toNat + 1 := by
  have hn : d.toNat ≠ 0 := fun h => hd (BitVec.eq_of_toNat_eq h)
  refine ⟨mem_setPositions.mpr ⟨_, (Nat.log2_lt hn).mpr d.isLt, Nat.testBit_log2 hn, rfl⟩, fun p hp => ?_⟩
  obtain ⟨i, -, hbit, rfl⟩ := mem_setPositions.mp hp
  have := (Nat.le_log2 hn).mpr (Nat.ge_two_pow_of_testBit hbit)
  omega

theorem setPositions_zero : setPositions 0 = [] := by
  simp [setPositions]

/-- The distances of a delta sum to its highest set position (R137). -/
theorem distances_sum (d : Word) : (distances d).sum = if d = 0 then 0 else Nat.log2 d.toNat + 1 := by
  split
  · next h =>
    subst h
    rw [distances, setPositions_zero]
    rfl
  · next h =>
    obtain ⟨hmem, hle⟩ := gaps_sum (setPositions_rise d)
    obtain ⟨htop, hmax⟩ := highest_setPosition h
    rw [Nat.zero_add] at hmem hle
    have hge := hle _ (List.mem_cons_of_mem _ htop)
    obtain h0 | hset := List.mem_cons.mp hmem
    · omega
    · exact Nat.le_antisymm (hmax _ hset) hge

theorem distances_sum_le (d : Word) : (distances d).sum ≤ 32 := by
  obtain ⟨hmem, -⟩ := gaps_sum (setPositions_rise d)
  rw [Nat.zero_add] at hmem
  obtain h0 | hset := List.mem_cons.mp hmem
  · exact h0.trans_le (Nat.zero_le _)
  · obtain ⟨i, hi, -, hp⟩ := mem_setPositions.mp hset
    exact hp.trans_le hi

theorem distances_bounds {d : Word} {k : Nat} (hk : k ∈ distances d) : 1 ≤ k ∧ k ≤ 32 :=
  ⟨gaps_pos (setPositions_rise d) k hk, (List.le_sum_of_mem hk).trans (distances_sum_le d)⟩

theorem distances_length (d : Word) : (distances d).length = setBits d :=
  gaps_length _ _

theorem setBits_le (d : Word) : setBits d ≤ 32 :=
  List.length_filter_le _ _

/-! The codes and extensions of a list of distances. -/

/-- The codes of a list of distances (R134, R135). -/
def codes (ks : List Nat) : List Span :=
  ks.map (fun k => (setDistance k).1)

/-- The extensions of the escapes among a list of distances (R135). -/
def extensions (ks : List Nat) : List Ext :=
  ks.filterMap (fun k => (setDistance k).2)

theorem codes_cons (k : Nat) (ks : List Nat) : codes (k :: ks) = (setDistance k).1 :: codes ks := rfl

theorem extensions_cons (k : Nat) (ks : List Nat) :
    extensions (k :: ks) = (setDistance k).2.toList ++ extensions ks := by
  unfold extensions
  cases h : (setDistance k).2 <;> simp [h]

@[simp] theorem codes_length (ks : List Nat) : (codes ks).length = ks.length :=
  List.length_map _

theorem literal_toNat {k : Nat} (hk : k < 7) : (BitVec.ofNat 3 k).toNat = k := by
  rw [BitVec.toNat_ofNat]
  omega

theorem surplus_toNat {k : Nat} (hk : k ≤ 32) : (BitVec.ofNat 5 (k - 7)).toNat = k - 7 := by
  rw [BitVec.toNat_ofNat]
  omega

/-- A code and its extension give the distance back (30_encoding.md R102). -/
theorem setDistance_toNat {k : Nat} (hk : k ≤ 32) :
    (setDistance k).1.toNat + ((setDistance k).2.toList.map BitVec.toNat).sum = k := by
  by_cases h : 7 ≤ k
  · rw [setDistance_of_le h]
    show 7 + ((BitVec.ofNat 5 (k - 7)).toNat + 0) = k
    rw [surplus_toNat hk]
    omega
  · rw [setDistance_of_lt (by omega)]
    exact literal_toNat (by omega)

theorem setDistance_ne_terminator {k : Nat} (hk : 1 ≤ k) : (setDistance k).1 ≠ 0 := by
  by_cases h : 7 ≤ k
  · simp [setDistance_of_le h]
  · rw [setDistance_of_lt (by omega)]
    intro h0
    have hk0 : k = 0 := (literal_toNat (by omega)).symm.trans (congrArg BitVec.toNat h0)
    omega

/-- A code is the escape exactly where the distance is 7 or more, and exactly then it has an extension. -/
theorem setDistance_escape (k : Nat) :
    ((setDistance k).1 = 7 ∧ (setDistance k).2.toList.length = 1 ∧ 7 ≤ k) ∨
    ((setDistance k).1 ≠ 7 ∧ (setDistance k).2.toList.length = 0) := by
  by_cases h : 7 ≤ k
  · simp [setDistance_of_le h, h]
  · right
    rw [setDistance_of_lt (by omega)]
    refine ⟨fun h7 => ?_, rfl⟩
    have hk7 : k = 7 := (literal_toNat (by omega)).symm.trans (congrArg BitVec.toNat h7)
    omega

theorem codes_extensions_sum {ks : List Nat} (hks : ∀ k ∈ ks, k ≤ 32) :
    ((codes ks).map BitVec.toNat).sum + ((extensions ks).map BitVec.toNat).sum = ks.sum := by
  induction ks with
  | nil => rfl
  | cons k ks ih =>
    have hk := setDistance_toNat (hks k List.mem_cons_self)
    have hrest := ih (fun j hj => hks j (List.mem_cons_of_mem _ hj))
    simp only [codes_cons, extensions_cons, List.map_cons, List.map_append, List.sum_cons, List.sum_append]
    omega

theorem codes_count_terminator {ks : List Nat} (hks : ∀ k ∈ ks, 1 ≤ k) : (codes ks).count 0 = 0 := by
  rw [List.count_eq_zero]
  intro h0
  obtain ⟨k, hk, hcode⟩ := List.mem_map.mp h0
  exact setDistance_ne_terminator (hks k hk) hcode

theorem extensions_length (ks : List Nat) : (extensions ks).length = (codes ks).count 7 := by
  induction ks with
  | nil => rfl
  | cons k ks ih =>
    rw [extensions_cons, codes_cons, List.count_cons, List.length_append, ih]
    obtain ⟨h7, hlen, -⟩ | ⟨h7, hlen⟩ := setDistance_escape k
    · rw [hlen, if_pos (beq_iff_eq.mpr h7), Nat.add_comm]
    · rw [hlen, if_neg (mt beq_iff_eq.mp h7), Nat.zero_add, Nat.add_zero]

/-- Each escape takes up a distance of at least 7. -/
theorem seven_mul_count_escape_le (ks : List Nat) : 7 * (codes ks).count 7 ≤ ks.sum := by
  induction ks with
  | nil => simp [codes]
  | cons k ks ih =>
    rw [codes_cons, List.count_cons, List.sum_cons]
    obtain ⟨h7, -, hk⟩ | ⟨h7, -⟩ := setDistance_escape k
    · simp only [h7, beq_self_eq_true, if_true]
      omega
    · simp only [beq_iff_eq, h7, if_false]
      omega

theorem extensions_le {ks : List Nat} (hks : ∀ k ∈ ks, k ≤ 32) : ∀ e ∈ extensions ks, e.toNat ≤ 25 := by
  intro e he
  obtain ⟨k, hk, hext⟩ := List.mem_filterMap.mp he
  have hk32 := hks k hk
  by_cases h : 7 ≤ k
  · rw [setDistance_of_le h] at hext
    obtain rfl := Option.some.inj hext
    rw [surplus_toNat hk32]
    omega
  · rw [setDistance_of_lt (by omega)] at hext
    cases hext

/-! The run of one delta. -/

/-- The span run of a delta (R133 to R136). -/
def runSpans (d : Word) : List Span :=
  codes (distances d) ++ [0]

/-- The extensions of the run of a delta (R135). -/
def runExts (d : Word) : List Ext :=
  extensions (distances d)

theorem runSpans_length (d : Word) : (runSpans d).length = setBits d + 1 := by
  simp [runSpans, distances_length]

theorem runSpans_count_terminator (d : Word) : (runSpans d).count 0 = 1 := by
  rw [runSpans, List.count_append, codes_count_terminator (fun _ hk => (distances_bounds hk).1)]
  rfl

theorem runSpans_count_escape (d : Word) : (runSpans d).count 7 = (codes (distances d)).count 7 := by
  simp [runSpans]

theorem runExts_length (d : Word) : (runExts d).length = (runSpans d).count 7 := by
  rw [runSpans_count_escape, runExts, extensions_length]

theorem runSpans_count_escape_le (d : Word) : (runSpans d).count 7 ≤ 4 := by
  have h7 := seven_mul_count_escape_le (distances d)
  have h32 := distances_sum_le d
  rw [runSpans_count_escape]
  omega

theorem runExts_le {d : Word} : ∀ e ∈ runExts d, e.toNat ≤ 25 :=
  extensions_le (fun _ hk => (distances_bounds hk).2)

theorem run_sum (d : Word) :
    ((runSpans d).map BitVec.toNat).sum + ((runExts d).map BitVec.toNat).sum =
      if d = 0 then 0 else Nat.log2 d.toNat + 1 := by
  have hsum := codes_extensions_sum (fun _ hk => (distances_bounds (d := d) hk).2)
  rw [distances_sum] at hsum
  simpa [runSpans, runExts] using hsum

/-! The encoder emits the runs of the deltas. -/

theorem emitDistance_streams (k : Nat) (e : Encoder) :
    (emitDistance k e).spans = e.spans ++ [(setDistance k).1] ∧
      (emitDistance k e).exts = e.exts ++ (setDistance k).2.toList := by
  obtain ⟨hk, h⟩ | ⟨hk, h⟩ := emitDistance_cases k e
  · simp [h, setDistance_of_lt hk]
  · simp [h, setDistance_of_le hk]

/-- The scan of a list of positions emits the codes of the gaps between the set ones (R133). -/
theorem foldl_examine_streams (ps : List Nat) (e : Encoder) :
    (ps.foldl examine e).spans =
        e.spans ++ codes (gaps e.regs.last (ps.filter (fun p => e.regs.delta.getLsbD (p - 1)))) ∧
      (ps.foldl examine e).exts =
        e.exts ++ extensions (gaps e.regs.last (ps.filter (fun p => e.regs.delta.getLsbD (p - 1)))) := by
  induction ps generalizing e with
  | nil => simp [gaps, codes, extensions]
  | cons p ps ih =>
    obtain ⟨hs, hx⟩ := ih (examine e p)
    rw [examine_delta, examine_last] at hs hx
    rw [List.foldl_cons, hs, hx]
    by_cases hp : e.regs.delta.getLsbD (p - 1) = true
    · simp [examine, hp, emitDistance_streams, gaps, codes_cons, extensions_cons]
    · simp [examine, hp]

theorem encodeWord_streams (e : Encoder) (s : Word) :
    (encodeWord e s).spans = e.spans ++ runSpans (s ^^^ e.regs.prev) ∧
      (encodeWord e s).exts = e.exts ++ runExts (s ^^^ e.regs.prev) := by
  obtain ⟨hs, hx⟩ := foldl_examine_streams positions (startDelta e s)
  constructor
  · rw [encodeWord, emitTerminator, hs, List.append_assoc]
    rfl
  · rw [encodeWord, emitTerminator, hx]
    rfl

theorem foldl_encodeWord_streams (ws : List Word) (e : Encoder) :
    (ws.foldl encodeWord e).spans = e.spans ++ (deltasFrom e.regs.prev ws).flatMap runSpans ∧
      (ws.foldl encodeWord e).exts = e.exts ++ (deltasFrom e.regs.prev ws).flatMap runExts := by
  induction ws generalizing e with
  | nil => simp [deltasFrom]
  | cons w ws ih =>
    obtain ⟨hs, hx⟩ := ih (encodeWord e w)
    obtain ⟨hs', hx'⟩ := encodeWord_streams e w
    rw [encodeWord_prev] at hs hx
    simp [hs, hx, hs', hx', deltasFrom]

/-- The transform is the runs of the deltas one after another (R137). -/
theorem transform_eq (ws : List Word) :
    transform ws = ((deltasFrom 0 ws).flatMap runSpans, (deltasFrom 0 ws).flatMap runExts) := by
  obtain ⟨hs, hx⟩ := foldl_encodeWord_streams ws Encoder.start
  exact Prod.ext hs hx

theorem transform_singleton (d : Word) : transform [d] = (runSpans d, runExts d) := by
  simp [transform_eq, deltasFrom]

@[simp] theorem deltasFrom_length (prev : Word) (ws : List Word) : (deltasFrom prev ws).length = ws.length := by
  induction ws generalizing prev with
  | nil => rfl
  | cons w ws ih => simp [deltasFrom, ih]

/-! The whole streams, as sums over the deltas. -/

theorem flatMap_runSpans_length (ds : List Word) :
    (ds.flatMap runSpans).length = ds.length + (ds.map setBits).sum := by
  induction ds with
  | nil => rfl
  | cons d ds ih =>
    rw [List.flatMap_cons, List.length_append, ih, runSpans_length, List.length_cons, List.map_cons, List.sum_cons]
    omega

theorem flatMap_runSpans_count_terminator (ds : List Word) : (ds.flatMap runSpans).count 0 = ds.length := by
  induction ds with
  | nil => rfl
  | cons d ds ih =>
    rw [List.flatMap_cons, List.count_append, ih, runSpans_count_terminator, List.length_cons, Nat.add_comm]

theorem flatMap_runExts_length (ds : List Word) : (ds.flatMap runExts).length = (ds.flatMap runSpans).count 7 := by
  induction ds with
  | nil => rfl
  | cons d ds ih => rw [List.flatMap_cons, List.flatMap_cons, List.length_append, List.count_append, ih, runExts_length]

/-- Settles O23: the streams are the runs of the deltas, and a run is the codes of the distances and the terminator. -/
theorem transformStreamsHaveTheirShape : Obligations.TransformStreamsHaveTheirShape := by
  refine ⟨fun ws => ?_, fun d => ?_⟩
  · simp only [transform_singleton]
    refine ⟨transform_eq ws, ?_⟩
    rw [transform_eq ws]
    refine ⟨?_, ?_, flatMap_runExts_length _, fun e he => ?_⟩
    · rw [flatMap_runSpans_length, deltasFrom_length, totalSetBits]
    · rw [flatMap_runSpans_count_terminator, deltasFrom_length]
    · obtain ⟨d, -, hd⟩ := List.mem_flatMap.mp he
      exact runExts_le e hd
  · have hbits := setBits_le d
    rw [transform_singleton]
    refine ⟨?_, ?_, runSpans_count_escape_le d, List.getLast?_concat, run_sum d⟩
    · rw [runSpans_length]
      omega
    · rw [runSpans_length]
      omega

end Sys2Proof.Machine
end

section
/-! PROOF. The command `ENCODE` (40_span_encoder.md R130, R138 to R144): its entry test, then the three tests of a finished
transform, then the frame. -/

namespace Sys2Proof.Machine

/-! The reserve. -/

theorem packedLen5_eq (n : Nat) : packedLen 5 n = 5 * (n / 8) + (5 * (n % 8) + 7) / 8 := by
  unfold packedLen
  omega

/-- What the last stride of `r` extensions leaves of its 5 bytes (43_pack5.md R211). -/
theorem stride_slack : ∀ r < 8, 5 - (5 * r + 7) / 8 = [5, 4, 3, 3, 2, 1, 1, 0].getD r 0 := by
  decide

/-- Settles O24: the full strides are in both sizes, so the difference is what the last stride leaves. -/
theorem reserveExceedsTheFrameByTheTable : Obligations.ReserveExceedsTheFrameByTheTable := by
  refine fun spans exts => ⟨frameLength_le_reservedSize spans exts, ?_⟩
  rw [← stride_slack (exts % 8) (Nat.mod_lt _ (by decide))]
  simp only [reservedSize, frameLength, pack3Size_eq, packedLen5_eq, pack5Size]
  omega

/-! The command, test by test. -/

theorem execEncode_tooManyWords {s : State} (h : s.cfg.wcap.val < s.wlen.toNat) :
    execEncode s = .next (refuseEncode s) :=
  if_pos (decide_eq_true h)

theorem execEncode_of_holds {s : State} {ws : List Word} (hws : s.wbuf.Holds ws) (hlen : ws.length = s.wlen.toNat)
    (hcap : s.wlen.toNat ≤ s.cfg.wcap.val) : execEncode s = .next (encodeFinish (runTransform ws) s) := by
  have hc : exceeds s.wlen.toNat (capacity s.cfg .wbuf) = false := decide_eq_false (Nat.not_lt.mpr hcap)
  have hread := hws.readFrom
  rw [hlen] at hread
  simp [execEncode, hc, hread]

/-- The streams or the reserve of a transform are above a capacity (R143). -/
def StreamsExceed (cfg : Config) (ws : List Word) : Prop :=
  exceeds (transform ws).1.length cfg.e3cap = true ∨ exceeds (transform ws).2.length cfg.e5cap = true ∨
    exceeds (reservedSize (transform ws).1.length (transform ws).2.length) cfg.bcap = true

/-- The end of `ENCODE` tests the lengths of the two streams, which its cursors count. -/
theorem encodeFinish_tests_iff (ws : List Word) (cfg : Config) :
    (exceeds (runTransform ws).regs.spanCount cfg.e3cap || exceeds (runTransform ws).regs.extCount cfg.e5cap ||
      exceeds (reservedSize (runTransform ws).regs.spanCount (runTransform ws).regs.extCount) cfg.bcap) = true ↔
      StreamsExceed cfg ws := by
  obtain ⟨hs, hx⟩ := runTransform_counted ws
  rw [hs, hx, Bool.or_eq_true, Bool.or_eq_true, or_assoc]
  rfl

theorem encodeFinish_of_exceed {s : State} {ws : List Word} (h : StreamsExceed s.cfg ws) :
    encodeFinish (runTransform ws) s = refuseEncode { s with enc := (runTransform ws).regs } :=
  if_pos ((encodeFinish_tests_iff ws s.cfg).mpr h)

theorem encodeFinish_of_fit {s : State} {ws : List Word} (h : ¬ StreamsExceed s.cfg ws) :
    encodeFinish (runTransform ws) s = storeFrame (runTransform ws) s :=
  if_neg (mt (encodeFinish_tests_iff ws s.cfg).mp h)

theorem refuseEncode_frame (e : EncRegs) (s : State) : EncodeFrame s (refuseEncode { s with enc := e }) := rfl

theorem storeFrame_frame (e : Encoder) (s : State) : EncodeFrame s (storeFrame e s) := rfl

/-- The frame in `BBUF` is `compress` of the words where the count fits the register (R130, R138). -/
theorem frameOf_runTransform {ws : List Word} {n : BitVec 24} (hlen : ws.length = n.toNat) (a : Byte) :
    frameOf a n (runTransform ws).spans (runTransform ws).exts = compress ws a := by
  rw [compress, hlen, BitVec.ofNat_toNat, BitVec.setWidth_eq, transform]

theorem compress_length (ws : List Word) (a : Byte) :
    (compress ws a).length = frameLength (transform ws).1.length (transform ws).2.length :=
  frameOf_length _ _ _ _

/-- Settles O21: with the tests passed, the frame, the streams and the registers are those of the transform. -/
theorem encodeWritesTheFrame : Obligations.EncodeWritesTheFrame := by
  intro s ws hws hlen hcap h3 h5 hb
  have hfits : ¬ StreamsExceed s.cfg ws := by
    rintro (h | h | h)
    · simp [h3] at h
    · simp [h5] at h
    · exact Bool.false_ne_true (hb.symm.trans h)
  have hrun : exec .encode s = .next (storeFrame (runTransform ws) s) :=
    encodeFinish_of_fit hfits ▸ execEncode_of_holds hws hlen (hlen ▸ hcap)
  obtain ⟨hs, hx⟩ := runTransform_counted ws
  have hblen : (storeFrame (runTransform ws) s).blen = frameLength (transform ws).1.length (transform ws).2.length := by
    rw [storeFrame_blen, hs, hx, transform]
  refine ⟨_, hrun, storeFrame_status _ _, ?_, hblen.trans (compress_length _ _).symm, hblen, ?_, storeFrame_count _ _,
    Buf.holds_ofSeq _ _, hs, Buf.holds_ofSeq _ _, hx, storeFrame_frame _ _⟩
  · rw [storeFrame_bbuf, frameOf_runTransform hlen]
    exact Buf.holds_ofSeq _ _
  · rw [storeFrame_cap, hs, hx]
    rfl

/-- Settles O22: too many words are refused at the entry; the rest by the tests of the finished transform. -/
theorem encodeRefusedExactlyForCapacity : Obligations.EncodeRefusedExactlyForCapacity := by
  have hentry : ∀ s : State, s.cfg.wcap.val < s.wlen.toNat →
      ∃ t, exec .encode s = .next t ∧ t.status = .refusedCapacity ∧ EncodeFrame s t :=
    fun s h => ⟨_, execEncode_tooManyWords h, refuseEncode_status s, refuseEncode_frame s.enc s⟩
  refine ⟨hentry, fun s ws hws hlen => ?_⟩
  by_cases hw : s.cfg.wcap.val < s.wlen.toNat
  · obtain ⟨t, hrun, hst, hframe⟩ := hentry s hw
    exact ⟨t, hrun, hframe, iff_of_true hst (.inl hw)⟩
  refine ⟨_, execEncode_of_holds hws hlen (Nat.not_lt.mp hw), ?_⟩
  by_cases hx : StreamsExceed s.cfg ws
  · rw [encodeFinish_of_exceed hx]
    exact ⟨refuseEncode_frame _ s, iff_of_true (refuseEncode_status _) (.inr hx)⟩
  · rw [encodeFinish_of_fit hx]
    exact ⟨storeFrame_frame _ s, iff_of_false (by simp) (not_or.mpr ⟨hw, hx⟩)⟩

end Sys2Proof.Machine
end

section
/-! PROOF. The span codes run alone, and one turn of the replay (41_span_decoder.md R158 to R164, R171 to R176). -/

namespace Sys2Proof.Machine

/-! The advance (R159) and its end beyond position 32 (R160). -/

theorem advance_of_le {d : Nat} {s : State} (h : s.dec.bo + d ≤ 32) :
    advance d s = { s with dec := { s.dec with bo := s.dec.bo + d, fp := setPosition s.dec.fp (s.dec.bo + d) } } :=
  if_neg (Nat.not_lt.mpr h)

theorem advance_of_lt {d : Nat} {s : State} (h : 32 < s.dec.bo + d) :
    advance d s = stopDecode .unspecifiedBitOffset { s with dec := { s.dec with bo := s.dec.bo + d } } :=
  if_pos h

/-- A stop of `DECODE` has the end state of R168 for every state that agrees with its own outside the outputs. -/
theorem stoppedDecode_stopDecode (c : Stop) {s u : State} (hu : u.outsideDecode = s.outsideDecode) :
    StoppedDecode c s (stopDecode c u) := by
  refine ⟨rfl, rfl, (stopDecode_frame c u).of_outsideDecode_eq hu, fun expected actual hc => ?_⟩
  simp [hc]

theorem advance_stops {d : Nat} {s u : State} (hu : u.outsideDecode = s.outsideDecode) (h : 32 < u.dec.bo + d) :
    StoppedDecode .unspecifiedBitOffset s (advance d u) := by
  rw [advance_of_lt h]
  exact stoppedDecode_stopDecode _ hu

/-! The dispatch (R161). -/

theorem decodeSpan_wellFormed (c : Span) : (decodeSpan c).wellFormed .span3 = true :=
  decodeWord_wellFormed .span3 c

/-- A span code read from `E3BUF` runs as the instruction it decodes to (30_encoding.md R96). -/
theorem exec_decodeSpan (c : Span) (s : State) : exec (decodeSpan c) s = execSpanCode c s := by
  have hword : encode (decodeSpan c) = c := encode_decodeWord .span3 c
  rw [exec_span (decodeSpan_wellFormed c), hword]

theorem span_eq_literal : ∀ c : Span, c ≠ 0 → c ≠ 7 → c = 1 ∨ c = 2 ∨ c = 3 ∨ c = 4 ∨ c = 5 ∨ c = 6 := by
  decide

/-- 41_span_decoder.md R163: a code that is neither `T` nor `X` advances by its value. -/
theorem execSpanCode_literal {c : Span} (h0 : c ≠ 0) (h7 : c ≠ 7) (s : State) :
    execSpanCode c s = .next (advance c.toNat s) := by
  obtain rfl | rfl | rfl | rfl | rfl | rfl := span_eq_literal c h0 h7 <;> rfl

/-- Settles O16: the literal codes are those that advance by their value, within the word or beyond it. -/
theorem literalCodesAdvanceByTheirValue : Obligations.LiteralCodesAdvanceByTheirValue := by
  intro c s h1 h6
  have h0 : c ≠ 0 := by rintro rfl; simp at h1
  have h7 : c ≠ 7 := by rintro rfl; simp at h6
  rw [exec_decodeSpan, execSpanCode_literal h0 h7]
  exact ⟨fun hle => congrArg _ (advance_of_le hle), fun hlt => ⟨_, rfl, advance_stops rfl hlt⟩⟩

/-- Settles O18: each of the five is `advance` by its number. -/
theorem d2ToD6AdvanceOrStop : Obligations.D2ToD6AdvanceOrStop := by
  refine ⟨rfl, rfl, rfl, rfl, rfl, rfl, fun s i k hik => ?_⟩
  have hexec : exec i s = .next (advance k s) ∧ k ≤ 6 := by
    simp only [List.mem_cons, Prod.mk.injEq, List.not_mem_nil, or_false] at hik
    obtain ⟨rfl, rfl⟩ | ⟨rfl, rfl⟩ | ⟨rfl, rfl⟩ | ⟨rfl, rfl⟩ | ⟨rfl, rfl⟩ := hik <;> exact ⟨rfl, by decide⟩
  obtain ⟨hrun, hk⟩ := hexec
  rw [hrun]
  exact ⟨fun hle => congrArg _ (advance_of_le hle), fun hlt => ⟨_, rfl, advance_stops rfl (by omega)⟩⟩

/-! `D1` in a row. -/

theorem execD1_of_le {s : State} (h : s.dec.bo ≤ 31) :
    exec .d1 s =
      .next { s with dec := { s.dec with bo := s.dec.bo + 1, fp := setPosition s.dec.fp (s.dec.bo + 1) } } :=
  congrArg _ (advance_of_le (by omega))

/-- Setting position `p` sets bit `p - 1` and no other (00_scope.md R10). -/
theorem setPosition_getLsbD (fp : Word) {p : Nat} (h1 : 1 ≤ p) (h32 : p ≤ 32) (i : Nat) :
    (setPosition fp p).getLsbD i = (fp.getLsbD i || decide (p = i + 1)) := by
  rw [setPosition, BitVec.getLsbD_or, ← BitVec.twoPow_eq, BitVec.getLsbD_twoPow]
  have hiff : (p - 1 < 32 ∧ p - 1 = i) ↔ p = i + 1 := by omega
  rw [← Bool.decide_and, decide_eq_decide.mpr hiff]

/-- One more position above the `n` lowest. -/
theorem setPosition_ones {n : Nat} (hn : n < 32) :
    setPosition (BitVec.ofNat 32 (2 ^ n - 1)) (n + 1) = BitVec.ofNat 32 (2 ^ (n + 1) - 1) := by
  refine BitVec.eq_of_getLsbD_eq fun i hi => ?_
  rw [setPosition_getLsbD _ (by omega) (by omega)]
  simp only [BitVec.getLsbD_ofNat, Nat.testBit_two_pow_sub_one, hi, decide_true, Bool.true_and]
  rw [← Bool.decide_or]
  exact decide_eq_decide.mpr (by omega)

/-- Settles O17: `D1` is `advance 1`, and n of them set the n lowest positions. -/
theorem thirtyTwoD1FillTheWord : Obligations.ThirtyTwoD1FillTheWord := by
  refine ⟨rfl, fun s h => execD1_of_le h, fun s h => ⟨_, rfl, advance_stops rfl (by omega)⟩, fun s n hbo hfp hn => ?_⟩
  refine ⟨_, ?_, rfl⟩
  induction n with
  | zero =>
    have hdec : { s.dec with bo := 0, fp := BitVec.ofNat 32 (2 ^ 0 - 1) } = s.dec := by
      rw [show BitVec.ofNat 32 (2 ^ 0 - 1) = s.dec.fp from hfp.symm, ← hbo]
    rw [hdec]
    rfl
  | succ n ih =>
    rw [List.range_succ, List.foldl_append, ih (by omega)]
    have hstep := execD1_of_le
      (s := { s with dec := { s.dec with bo := n, fp := BitVec.ofNat 32 (2 ^ n - 1) } }) (Nat.le_of_lt_succ hn)
    simp only [setPosition_ones (show n < 32 from hn)] at hstep
    exact hstep

/-! `T` and `X`. -/

theorem execT_of_lt {s : State} (h : s.dec.wp < s.cfg.wcap.val) :
    execT s = .next
      { s with
        wbuf := s.wbuf.write s.dec.wp (s.dec.fp ^^^ s.dec.fpPrev)
        dec := { s.dec with wp := s.dec.wp + 1, fpPrev := s.dec.fp ^^^ s.dec.fpPrev, fp := 0, bo := 0 } } := by
  have hcell : cellExists s.cfg .wbuf s.dec.wp = true := by
    simp only [cellExists, capacity, exceeds_some, Bool.not_eq_true', decide_eq_false_iff_not]
    omega
  exact if_pos hcell

theorem execT_of_le {s : State} (h : s.cfg.wcap.val ≤ s.dec.wp) :
    execT s = .fault (.noSuchCell .wbuf s.dec.wp) := by
  have hcell : ¬ cellExists s.cfg .wbuf s.dec.wp = true := by
    simp only [cellExists, capacity, exceeds_some, Bool.not_eq_true', decide_eq_false_iff_not]
    omega
  exact if_neg hcell

/-- Settles O19: the write of one cell, and the cell above the last. -/
theorem terminatorStoresTheSubFingerprint : Obligations.TerminatorStoresTheSubFingerprint := by
  refine fun s => ⟨fun h => ⟨_, execT_of_lt h, ?_, fun i hi => ?_, rfl⟩, execT_of_le⟩
  · exact Buf.read_write_same _ _ _
  · exact Buf.read_write_other _ _ (Ne.symm hi)

theorem execX_of_read {s : State} {e : Ext} (h : engineRead s.cfg .e5buf s.e5buf s.dec.xp = .ok e) :
    execX s = .next (advance (7 + e.toNat) { s with dec := { s.dec with xp := s.dec.xp + 1 } }) := by
  rw [execX, h]
  rfl

/-- Settles O20: what the read of cell `xp` gives decides, and past it `X` is `advance`. -/
theorem escapeConsumesTheNextExtension : Obligations.EscapeConsumesTheNextExtension := by
  intro s
  refine ⟨fun hcell => ?_, fun hcell hread => ?_, fun e hcell hread => ?_⟩
  · simp [exec, execX, engineRead, hcell]
  · simp [exec, execX, engineRead, hcell, hread]
  · have hrun : exec .x s = _ := execX_of_read (engineRead_ok.mpr ⟨hcell, hread⟩)
    have hstops : 32 < s.dec.bo + 7 + e.toNat →
        ∃ t, exec .x s = .next t ∧ StoppedDecode .unspecifiedBitOffset s t := by
      intro hlt
      rw [Nat.add_assoc] at hlt
      exact ⟨_, hrun, advance_stops rfl hlt⟩
    refine ⟨fun hle => ?_, hstops, fun he => ?_⟩
    · rw [Nat.add_assoc] at hle ⊢
      exact hrun.trans (congrArg _ (advance_of_le hle))
    · obtain ⟨t, ht, hst, -⟩ := hstops (by omega)
      exact ⟨t, ht, by rw [hst]; rfl⟩

/-! One turn of the replay. -/

/-- A replay that has ended stays where it is, however many turns are left. -/
theorem replay_of_ended (n : Nat) {s : State} (hr : ¬ (s.replaying = true ∧ s.dec.sp < s.dec.spanLength)) :
    replay n s = .next s := by
  cases n with
  | zero => rfl
  | succ n => exact replay_ended n hr

/-- Settles O5: one turn is the decoded code on the state with `sp` moved on, then the rest. -/
theorem replayFetchesAndRunsTheDecodedSpanCode : Obligations.ReplayFetchesAndRunsTheDecodedSpanCode := by
  refine fun n s hr => ⟨fun c hsp hc => ⟨decodeSpan_wellFormed c, ?_⟩, fun hsp => ?_⟩
  · rw [exec_decodeSpan]
    exact replay_fetch_ok n ⟨hr, hsp⟩ hc
  · exact replay_of_ended n (by omega)

end Sys2Proof.Machine
end

section
/-! PROOF. The pure decoder (41_span_decoder.md R150 to R169): what it reads of the spans, what each code does to the value
under construction, and that bytes after the frame do not show. -/

namespace Sys2Proof.Machine

/-! The spans up to the last terminator (R155, R156). -/

@[simp] theorem takeRuns_zero (xs : List Span) : takeRuns 0 xs = some [] := by
  cases xs <;> rfl

theorem takeRuns_cons (c : Nat) (x : Span) (xs : List Span) :
    takeRuns (c + 1) (x :: xs) = (takeRuns (if x = 0 then c else c + 1) xs).map (fun ys => x :: ys) := rfl

/-- Induction along the spans taken: none is missing a terminator any more, or one more span is taken. -/
theorem takeRuns_induction {P : Nat → List Span → List Span → Prop} (stop : ∀ xs, P 0 xs [])
    (take : ∀ c x xs ys, P (if x = 0 then c else c + 1) xs ys → P (c + 1) (x :: xs) (x :: ys))
    {c : Nat} {xs ys : List Span} (h : takeRuns c xs = some ys) : P c xs ys := by
  induction xs generalizing c ys with
  | nil =>
    cases c with
    | zero => cases h; exact stop []
    | succ c => cases h
  | cons x xs ih =>
    cases c with
    | zero => cases h; exact stop (x :: xs)
    | succ c =>
      obtain ⟨zs, hzs, rfl⟩ := Option.map_eq_some_iff.mp h
      exact take c x xs zs (ih hzs)

/-- What follows the spans taken does not matter. -/
theorem takeRuns_append {c : Nat} {xs ys : List Span} (h : takeRuns c xs = some ys) (more : List Span) :
    takeRuns c (xs ++ more) = some ys := by
  refine takeRuns_induction (P := fun c xs ys => takeRuns c (xs ++ more) = some ys) ?_ ?_ h
  · exact fun xs => takeRuns_zero _
  · intro c x xs ys ih
    rw [List.cons_append, takeRuns_cons, ih]
    rfl

theorem takeRuns_isPrefix {c : Nat} {xs ys : List Span} (h : takeRuns c xs = some ys) : ys <+: xs :=
  takeRuns_induction (P := fun _ xs ys => ys <+: xs) (fun _ => List.nil_prefix)
    (fun _ x _ _ ih => (List.prefix_cons_inj x).mpr ih) h

/-- As many terminators are taken as were asked for. -/
theorem takeRuns_count {c : Nat} {xs ys : List Span} (h : takeRuns c xs = some ys) : ys.count 0 = c := by
  refine takeRuns_induction (P := fun c _ ys => ys.count 0 = c) (fun _ => rfl) ?_ h
  intro c x xs ys ih
  by_cases hx : x = 0
  · rw [hx, List.count_cons_self, ih, if_pos hx]
  · rw [List.count_cons_of_ne hx, ih, if_neg hx]

/-- A run ends at its terminator. -/
theorem takeRuns_run {ys : List Span} (hys : ∀ y ∈ ys, y ≠ 0) (c : Nat) (xs : List Span) :
    takeRuns (c + 1) (ys ++ 0 :: xs) = (takeRuns c xs).map (fun zs => ys ++ 0 :: zs) := by
  induction ys with
  | nil => rfl
  | cons y ys ih =>
    have hy : y ≠ 0 := hys y List.mem_cons_self
    rw [List.cons_append, takeRuns_cons, if_neg hy, ih (fun z hz => hys z (List.mem_cons_of_mem _ hz)), Option.map_map]
    rfl

/-! The replay on sequences, code by code (R159 to R164). -/

/-- `advance` by `d` on sequences: past position 32 the replay stops. -/
def advanceThen (cs : List Span) (es : List Ext) (bo d : Nat) (fp prev : Word) : Except Stop (List Word) :=
  if bo + d ≤ 32 then replaySpans cs es (bo + d) (setPosition fp (bo + d)) prev else .error .unspecifiedBitOffset

theorem replaySpans_nil (es : List Ext) (bo : Nat) (fp prev : Word) :
    replaySpans [] es bo fp prev = if fp = 0 then .ok [] else .error (.error .incompleteStride) := rfl

theorem replaySpans_terminator (cs : List Span) (es : List Ext) (bo : Nat) (fp prev : Word) :
    replaySpans (0 :: cs) es bo fp prev =
      (replaySpans cs es 0 0 (fp ^^^ prev)).map (fun ws => (fp ^^^ prev) :: ws) := by
  show (match replaySpans cs es 0 0 (fp ^^^ prev) with | .ok ws => _ | .error e => _) = _
  split <;> next h => rw [h]; rfl

theorem replaySpans_escape (cs : List Span) (e : Ext) (es : List Ext) (bo : Nat) (fp prev : Word) :
    replaySpans (7 :: cs) (e :: es) bo fp prev = advanceThen cs es bo (7 + e.toNat) fp prev := rfl

theorem replaySpans_literal {c : Span} (h0 : c ≠ 0) (h7 : c ≠ 7) (cs : List Span) (es : List Ext) (bo : Nat)
    (fp prev : Word) : replaySpans (c :: cs) es bo fp prev = advanceThen cs es bo c.toNat fp prev := by
  rw [replaySpans.eq_def]
  exact (if_neg h0).trans (if_neg h7)

/-- All that the replay of one more code can do when it goes on: a terminator gives a word, every other code advances, an
escape with the next extension. -/
theorem replaySpans_cons_ok {c : Span} {cs : List Span} {es : List Ext} {bo : Nat} {fp prev : Word} {ws : List Word}
    (h : replaySpans (c :: cs) es bo fp prev = .ok ws) :
    (c = 0 ∧ ∃ vs, ws = (fp ^^^ prev) :: vs ∧ replaySpans cs es 0 0 (fp ^^^ prev) = .ok vs) ∨
    (∃ e rest, c = 7 ∧ es = e :: rest ∧ advanceThen cs rest bo (7 + e.toNat) fp prev = .ok ws) ∨
    (c ≠ 0 ∧ c ≠ 7 ∧ advanceThen cs es bo c.toNat fp prev = .ok ws) := by
  by_cases h0 : c = 0
  · subst h0
    rw [replaySpans_terminator] at h
    cases hvs : replaySpans cs es 0 0 (fp ^^^ prev) with
    | error e => rw [hvs] at h; cases h
    | ok vs => rw [hvs] at h; exact .inl ⟨rfl, vs, (Except.ok.inj h).symm, rfl⟩
  by_cases h7 : c = 7
  · subst h7
    cases es with
    | nil => cases h
    | cons e rest => exact .inr (.inl ⟨e, rest, rfl, rfl, h⟩)
  · rw [replaySpans_literal h0 h7] at h
    exact .inr (.inr ⟨h0, h7, h⟩)

theorem advanceThen_ok {cs : List Span} {es : List Ext} {bo d : Nat} {fp prev : Word} {ws : List Word}
    (h : advanceThen cs es bo d fp prev = .ok ws) :
    bo + d ≤ 32 ∧ replaySpans cs es (bo + d) (setPosition fp (bo + d)) prev = .ok ws := by
  unfold advanceThen at h
  split at h
  · next hle => exact ⟨hle, h⟩
  · cases h

/-- One word for each terminator. -/
theorem replaySpans_length {cs : List Span} {es : List Ext} {bo : Nat} {fp prev : Word} {ws : List Word}
    (h : replaySpans cs es bo fp prev = .ok ws) : ws.length = cs.count 0 := by
  induction cs generalizing es bo fp prev ws with
  | nil =>
    rw [replaySpans_nil] at h
    split at h <;> cases h
    rfl
  | cons c cs ih =>
    obtain ⟨rfl, vs, rfl, hvs⟩ | ⟨e, rest, rfl, rfl, hadv⟩ | ⟨h0, h7, hadv⟩ := replaySpans_cons_ok h
    · rw [List.length_cons, ih hvs, List.count_cons_self]
    · rw [ih (advanceThen_ok hadv).2, List.count_cons_of_ne (by decide)]
    · rw [ih (advanceThen_ok hadv).2, List.count_cons_of_ne h0]

/-- Extensions beyond those the escapes consume do not show. -/
theorem replaySpans_append_exts {cs : List Span} {es : List Ext} {bo : Nat} {fp prev : Word} {ws : List Word}
    (h : replaySpans cs es bo fp prev = .ok ws) (more : List Ext) :
    replaySpans cs (es ++ more) bo fp prev = .ok ws := by
  induction cs generalizing es bo fp prev ws with
  | nil => exact h
  | cons c cs ih =>
    have hadvance : ∀ {rest : List Ext} {d : Nat}, advanceThen cs rest bo d fp prev = .ok ws →
        advanceThen cs (rest ++ more) bo d fp prev = .ok ws := by
      intro rest d hadv
      obtain ⟨hle, hrest⟩ := advanceThen_ok hadv
      exact (if_pos hle).trans (ih hrest)
    obtain ⟨rfl, vs, rfl, hvs⟩ | ⟨e, rest, rfl, rfl, hadv⟩ | ⟨h0, h7, hadv⟩ := replaySpans_cons_ok h
    · rw [replaySpans_terminator, ih hvs]
      rfl
    · exact hadvance hadv
    · rw [replaySpans_literal h0 h7]
      exact hadvance hadv

/-! The decoder in parts: what it makes of the bytes after the header, and of the spans and the extensions. -/

/-- The answer for a replay of the streams. -/
def replayAnswer (a : Byte) (spans : List Span) (exts : List Ext) : Except Stop (List Word) → DecodeResult
  | .ok ws => .ok a ws spans exts
  | .error e => .stopped e

theorem replayAnswer_eq_ok {a a' : Byte} {spans spans' : List Span} {exts exts' : List Ext} {ws : List Word}
    {r : Except Stop (List Word)} :
    replayAnswer a spans exts r = .ok a' ws spans' exts' ↔
      (a = a' ∧ spans = spans' ∧ exts = exts') ∧ r = .ok ws := by
  cases r with
  | ok vs =>
    simp only [replayAnswer, DecodeResult.ok.injEq, Except.ok.injEq]
    tauto
  | error e => simp [replayAnswer]

/-- Steps 6 and 7 (R157, R158) for the spans taken and the extensions unpacked. -/
def decodeStreams (cfg : Config) (a : Byte) (c : BitVec 24) (spans : List Span) (exts : List Ext) : DecodeResult :=
  if exceeds exts.length cfg.e5cap then .stopped .refusedCapacity
  else if exts.length < spans.count 7 then .stopped (.error (.missingExtension (spans.count 7) exts.length))
  else if exceeds c.toNat (some cfg.wcap.val) then .stopped .refusedCapacity
  else replayAnswer a spans exts (replaySpans spans exts 0 0 0)

/-- Steps 3 to 7 (R154 to R158) for the bytes after the header. -/
def decodeBody (cfg : Config) (a : Byte) (c : BitVec 24) (body : List Byte) : DecodeResult :=
  match takeRuns c.toNat (unpack3 body) with
  | none => .stopped (.error .unexpectedEndOfData)
  | some spans => decodeStreams cfg a c spans (unpack5 (body.drop (pack3Size spans.length)))

theorem decompress_eq (cfg : Config) (bs : List Byte) :
    decompress cfg bs =
      if exceeds bs.length cfg.bcap then .stopped .refusedCapacity
      else if bs.length < 4 then .stopped (.error .inputTooShort)
      else if cfg.countPrecheck = true ∧ bs.length - 4 < (headerCount (bs.take 4)).toNat then
        .stopped (.error .unexpectedEndOfData)
      else if exceeds (unpackCount 3 (bs.length - 4)) cfg.e3cap then .stopped .refusedCapacity
      else decodeBody cfg (headerAlgo (bs.take 4)) (headerCount (bs.take 4)) (bs.drop 4) := rfl

theorem decodeStreams_eq_ok {cfg : Config} {a a' : Byte} {c : BitVec 24} {spans spans' : List Span}
    {exts exts' : List Ext} {ws : List Word} :
    decodeStreams cfg a c spans exts = .ok a' ws spans' exts' ↔
      (a = a' ∧ spans = spans' ∧ exts = exts') ∧ exceeds exts.length cfg.e5cap = false ∧
        spans.count 7 ≤ exts.length ∧ c.toNat ≤ cfg.wcap.val ∧ replaySpans spans exts 0 0 0 = .ok ws := by
  unfold decodeStreams
  constructor
  · intro h
    split at h
    · cases h
    · next h5 =>
      split at h
      · cases h
      · next hm =>
        split at h
        · cases h
        · next hw =>
          obtain ⟨heq, hr⟩ := replayAnswer_eq_ok.mp h
          exact ⟨heq, by simpa using h5, by omega, by simpa using hw, hr⟩
  · rintro ⟨heq, h5, hm, hw, hr⟩
    have hw' : ¬ exceeds c.toNat (some cfg.wcap.val) = true := by simpa using hw
    rw [if_neg (ne_true_of_eq_false h5), if_neg (Nat.not_lt.mpr hm), if_neg hw']
    exact replayAnswer_eq_ok.mpr ⟨heq, hr⟩

theorem decodeBody_eq_ok {cfg : Config} {a a' : Byte} {c : BitVec 24} {body : List Byte} {spans : List Span}
    {exts : List Ext} {ws : List Word} :
    decodeBody cfg a c body = .ok a' ws spans exts ↔
      takeRuns c.toNat (unpack3 body) = some spans ∧
        decodeStreams cfg a c spans (unpack5 (body.drop (pack3Size spans.length))) = .ok a' ws spans exts := by
  unfold decodeBody
  constructor
  · intro h
    split at h
    · cases h
    · next spans' hs =>
      obtain ⟨⟨-, rfl, -⟩, -⟩ := decodeStreams_eq_ok.mp h
      exact ⟨hs, h⟩
  · rintro ⟨hs, h⟩
    rw [hs]
    exact h

/-- The tests of the decoder before it looks at a span (R25, R151, R153, R154) pass. -/
structure HeaderPasses (cfg : Config) (bs : List Byte) : Prop where
  bytes : exceeds bs.length cfg.bcap = false
  header : 4 ≤ bs.length
  count : cfg.countPrecheck = false ∨ (headerCount (bs.take 4)).toNat ≤ bs.length - 4
  spans : exceeds (unpackCount 3 (bs.length - 4)) cfg.e3cap = false

theorem decompress_of_headerPasses {cfg : Config} {bs : List Byte} (h : HeaderPasses cfg bs) :
    decompress cfg bs = decodeBody cfg (headerAlgo (bs.take 4)) (headerCount (bs.take 4)) (bs.drop 4) := by
  obtain ⟨hb, hlen, hcount, h3⟩ := h
  have hcheck : ¬ (cfg.countPrecheck = true ∧ bs.length - 4 < (headerCount (bs.take 4)).toNat) := by
    rintro ⟨hp, hlt⟩
    obtain hp' | hle := hcount
    · simp [hp] at hp'
    · omega
  rw [decompress_eq, if_neg hcheck]
  simp [hb, Nat.not_lt.mpr hlen, h3]

theorem headerPasses_of_decompress_ok {cfg : Config} {bs : List Byte} {a : Byte} {ws : List Word} {spans : List Span}
    {exts : List Ext} (h : decompress cfg bs = .ok a ws spans exts) : HeaderPasses cfg bs := by
  rw [decompress_eq] at h
  split at h
  · cases h
  · next hb =>
    split at h
    · cases h
    · next hlen =>
      split at h
      · cases h
      · next hcount =>
        split at h
        · cases h
        · next h3 =>
          refine ⟨by simpa using hb, by omega, ?_, by simpa using h3⟩
          by_cases hp : cfg.countPrecheck = true
          · exact .inr (Nat.not_lt.mp fun hlt => hcount ⟨hp, hlt⟩)
          · exact .inl (by simpa using hp)

/-! Count 0, and bytes after the frame (R155, R169). -/

theorem headerPasses_of_unbounded {p : Bool} {bs : List Byte} (hlen : 4 ≤ bs.length)
    (hcount : p = false ∨ (headerCount (bs.take 4)).toNat ≤ bs.length - 4) :
    HeaderPasses { Config.unbounded with countPrecheck := p } bs :=
  ⟨rfl, hlen, hcount, rfl⟩

/-- Settles O32: no span is taken, so no extension is needed and nothing is replayed. -/
theorem countZeroDecodesToNothing : Obligations.CountZeroDecodesToNothing := by
  intro p a junk
  have hheader : (a :: 0 :: 0 :: 0 :: junk).take 4 = frameHeader a 0 :=
    congrArg (a :: ·) (by decide : [0, 0, 0] = be24 0)
  have hcount : headerCount ((a :: 0 :: 0 :: 0 :: junk).take 4) = 0 := by rw [hheader, headerCount_frameHeader]
  have hpass := headerPasses_of_unbounded (p := p) (bs := a :: 0 :: 0 :: 0 :: junk) (by simp)
    (.inr (by rw [hcount]; exact Nat.zero_le _))
  refine ⟨[], unpack5 junk, ?_⟩
  rw [decompress_of_headerPasses hpass, hcount]
  exact decodeBody_eq_ok.mpr ⟨takeRuns_zero _,
    decodeStreams_eq_ok.mpr ⟨⟨rfl, rfl, rfl⟩, rfl, Nat.zero_le _, Nat.zero_le _, rfl⟩⟩

theorem unpack3_append (bs more : List Byte) : ∃ tail, unpack3 (bs ++ more) = unpack3 bs ++ tail :=
  ⟨_, by rw [unpack3_eq_take bs more]; exact (List.take_append_drop _ _).symm⟩

theorem unpack5_append (bs more : List Byte) : ∃ tail, unpack5 (bs ++ more) = unpack5 bs ++ tail :=
  ⟨_, by rw [unpack5_eq_take bs more]; exact (List.take_append_drop _ _).symm⟩

/-- The spans taken from a body are packed in the body: the extensions begin inside it or at its end. -/
theorem pack3Size_le_of_takeRuns {c : Nat} {body : List Byte} {spans : List Span}
    (h : takeRuns c (unpack3 body) = some spans) : pack3Size spans.length ≤ body.length := by
  have hle := (takeRuns_isPrefix h).length_le
  have hfit := packedLen_unpackCount 3 body.length
  rw [unpack3_length] at hle
  simp only [pack3Size, packedLen] at hfit ⊢
  omega

/-- Bytes after the body do not show where `E5CAP` is unbounded. -/
theorem decodeBody_append {cfg : Config} (h5 : cfg.e5cap = none) {a a' : Byte} {c : BitVec 24} {body : List Byte}
    {spans : List Span} {exts : List Ext} {ws : List Word} (h : decodeBody cfg a c body = .ok a' ws spans exts)
    (junk : List Byte) : ∃ exts', decodeBody cfg a c (body ++ junk) = .ok a' ws spans exts' := by
  obtain ⟨hspans, hstreams⟩ := decodeBody_eq_ok.mp h
  obtain ⟨⟨rfl, -, rfl⟩, -, hm, hw, hr⟩ := decodeStreams_eq_ok.mp hstreams
  obtain ⟨moreSpans, h3⟩ := unpack3_append body junk
  obtain ⟨moreExts, h5'⟩ := unpack5_append (body.drop (pack3Size spans.length)) junk
  have hdrop := List.drop_append_of_le_length (l₂ := junk) (pack3Size_le_of_takeRuns hspans)
  refine ⟨unpack5 (body.drop (pack3Size spans.length)) ++ moreExts, decodeBody_eq_ok.mpr ⟨?_, ?_⟩⟩
  · rw [h3]
    exact takeRuns_append hspans moreSpans
  rw [hdrop, h5']
  refine decodeStreams_eq_ok.mpr ⟨⟨rfl, rfl, rfl⟩, by rw [h5]; rfl, ?_, hw, replaySpans_append_exts hr moreExts⟩
  rw [List.length_append]
  omega

/-- Settles O35: the header is that of the frame, and the body is that of the frame with more bytes. -/
theorem trailingBytesAreIgnored : Obligations.TrailingBytesAreIgnored := by
  rintro p frame junk a ws ⟨spans, exts, h⟩
  have hpass := headerPasses_of_decompress_ok h
  have hlen := hpass.header
  rw [decompress_of_headerPasses hpass] at h
  obtain ⟨exts', h'⟩ := decodeBody_append rfl h junk
  have htake : (frame ++ junk).take 4 = frame.take 4 := List.take_append_of_le_length hlen
  have hdrop : (frame ++ junk).drop 4 = frame.drop 4 ++ junk := List.drop_append_of_le_length hlen
  have hpass' : HeaderPasses { Config.unbounded with countPrecheck := p } (frame ++ junk) := by
    refine headerPasses_of_unbounded (by rw [List.length_append]; omega) (hpass.count.imp_right fun hle => ?_)
    rw [htake, List.length_append]
    omega
  refine ⟨spans, exts', ?_⟩
  rw [decompress_of_headerPasses hpass', htake, hdrop]
  exact h'

end Sys2Proof.Machine
end

section
/-! PROOF. The round trip (41_span_decoder.md R179): the runs of the deltas replay to the words they came from, the packers
return the streams with a tail that the replay does not see, and only the count check stands between a frame and its
words. -/

namespace Sys2Proof.Machine

/-! The run of a delta replays to the delta. -/

/-- The code of a distance, with its extension, advances by the distance (30_encoding.md R102). -/
theorem replaySpans_distance {k : Nat} (h1 : 1 ≤ k) (h32 : k ≤ 32) (cs : List Span) (es : List Ext) (bo : Nat)
    (fp prev : Word) :
    replaySpans ((setDistance k).1 :: cs) ((setDistance k).2.toList ++ es) bo fp prev =
      advanceThen cs es bo k fp prev := by
  obtain hk | hk := Nat.lt_or_ge k 7
  · have h0 : (setDistance k).1 ≠ 0 := setDistance_ne_terminator h1
    have h7 : (setDistance k).1 ≠ 7 := by
      obtain ⟨-, -, hge⟩ | ⟨hne, -⟩ := setDistance_escape k
      · omega
      · exact hne
    rw [replaySpans_literal h0 h7, setDistance_of_lt hk]
    exact congrArg (advanceThen cs es bo · fp prev) (literal_toNat hk)
  · rw [setDistance_of_le hk]
    refine (replaySpans_escape cs _ es bo fp prev).trans (congrArg (advanceThen cs es bo · fp prev) ?_)
    rw [surplus_toNat h32]
    omega

/-- The codes of the gaps between rising positions set those positions, and the terminator gives the word. -/
theorem replaySpans_gaps {last : Nat} {ps : List Nat} (hrise : (last :: ps).Pairwise (· < ·)) (h32 : ∀ p ∈ ps, p ≤ 32)
    {cs : List Span} {es : List Ext} {fp prev : Word} {ws : List Word}
    (h : replaySpans cs es 0 0 (ps.foldl setPosition fp ^^^ prev) = .ok ws) :
    replaySpans (codes (gaps last ps) ++ 0 :: cs) (extensions (gaps last ps) ++ es) last fp prev =
      .ok ((ps.foldl setPosition fp ^^^ prev) :: ws) := by
  induction ps generalizing last fp with
  | nil =>
    refine (replaySpans_terminator cs es last fp prev).trans ?_
    rw [show replaySpans cs es 0 0 (fp ^^^ prev) = .ok ws from h]
    rfl
  | cons p ps ih =>
    obtain ⟨hlast, hps⟩ := List.pairwise_cons.mp hrise
    have hlt : last < p := hlast p List.mem_cons_self
    have hp : p ≤ 32 := h32 p List.mem_cons_self
    have hsum : last + (p - last) = p := by omega
    have hrest := ih hps (fun q hq => h32 q (List.mem_cons_of_mem _ hq)) h
    rw [gaps, codes_cons, extensions_cons, List.cons_append, List.append_assoc,
      replaySpans_distance (by omega) (by omega), advanceThen, hsum, if_pos hp]
    exact hrest

theorem foldl_setPosition_getLsbD {ps : List Nat} (hps : ∀ p ∈ ps, 1 ≤ p ∧ p ≤ 32) (fp : Word) (i : Nat) :
    (ps.foldl setPosition fp).getLsbD i = (fp.getLsbD i || decide (i + 1 ∈ ps)) := by
  induction ps generalizing fp with
  | nil => simp
  | cons p ps ih =>
    obtain ⟨h1, h32⟩ := hps p List.mem_cons_self
    rw [List.foldl_cons, ih (fun q hq => hps q (List.mem_cons_of_mem _ hq)), setPosition_getLsbD _ h1 h32, Bool.or_assoc,
      ← Bool.decide_or]
    simp only [List.mem_cons, eq_comm]

theorem setPositions_bounds {d : Word} {p : Nat} (hp : p ∈ setPositions d) : 1 ≤ p ∧ p ≤ 32 := by
  obtain ⟨i, hi, -, rfl⟩ := mem_setPositions.mp hp
  omega

/-- A word is made of its set positions. -/
theorem foldl_setPosition_setPositions (d : Word) : (setPositions d).foldl setPosition 0 = d := by
  refine BitVec.eq_of_getLsbD_eq fun i hi => ?_
  have hmem : i + 1 ∈ setPositions d ↔ d.getLsbD i = true := by
    rw [mem_setPositions]
    constructor
    · rintro ⟨j, -, hbit, hij⟩
      obtain rfl : i = j := by omega
      exact hbit
    · exact fun hbit => ⟨i, hi, hbit, rfl⟩
  rw [foldl_setPosition_getLsbD (fun p hp => setPositions_bounds hp)]
  simp [hmem]

/-- The run of the delta of `w` replays to `w`. -/
theorem replaySpans_run {w prev : Word} {cs : List Span} {es : List Ext} {ws : List Word}
    (h : replaySpans cs es 0 0 w = .ok ws) :
    replaySpans (runSpans (w ^^^ prev) ++ cs) (runExts (w ^^^ prev) ++ es) 0 0 prev = .ok (w :: ws) := by
  have hw : (setPositions (w ^^^ prev)).foldl setPosition 0 ^^^ prev = w := by
    rw [foldl_setPosition_setPositions, BitVec.xor_assoc, BitVec.xor_self, BitVec.xor_zero]
  have hgaps := replaySpans_gaps (cs := cs) (es := es) (fp := 0) (prev := prev) (ws := ws)
    (setPositions_rise (w ^^^ prev)) (fun p hp => (setPositions_bounds hp).2) (hw.symm ▸ h)
  rw [hw] at hgaps
  rw [runSpans, List.append_assoc]
  exact hgaps

/-- The runs of the deltas of a sequence replay to the sequence. -/
theorem replaySpans_runs (prev : Word) (ws : List Word) :
    replaySpans ((deltasFrom prev ws).flatMap runSpans) ((deltasFrom prev ws).flatMap runExts) 0 0 prev = .ok ws := by
  induction ws generalizing prev with
  | nil => rfl
  | cons w ws ih =>
    rw [deltasFrom, List.flatMap_cons, List.flatMap_cons]
    exact replaySpans_run (ih w)

theorem codes_distances_ne_zero {d : Word} : ∀ c ∈ codes (distances d), c ≠ 0 := by
  intro c hc
  obtain ⟨k, hk, rfl⟩ := List.mem_map.mp hc
  exact setDistance_ne_terminator (distances_bounds hk).1

/-- One run for each delta: the scan takes the whole stream (R155). -/
theorem takeRuns_runs (ds : List Word) : takeRuns ds.length (ds.flatMap runSpans) = some (ds.flatMap runSpans) := by
  induction ds with
  | nil => rfl
  | cons d ds ih =>
    have happ : (d :: ds).flatMap runSpans = codes (distances d) ++ 0 :: ds.flatMap runSpans := by
      rw [List.flatMap_cons, runSpans, List.append_assoc]
      rfl
    rw [happ, List.length_cons, takeRuns_run codes_distances_ne_zero, ih]
    rfl

/-! The same for the streams of the transform. -/

theorem takeRuns_transform (ws : List Word) : takeRuns ws.length (transform ws).1 = some (transform ws).1 := by
  rw [transform_eq, ← deltasFrom_length 0 ws]
  exact takeRuns_runs _

theorem transform_escapes_le (ws : List Word) : (transform ws).1.count 7 ≤ (transform ws).2.length := by
  rw [transform_eq]
  exact (flatMap_runExts_length _).ge

theorem replaySpans_transform (ws : List Word) : replaySpans (transform ws).1 (transform ws).2 0 0 0 = .ok ws := by
  rw [transform_eq]
  exact replaySpans_runs 0 ws

/-! The frame decodes. -/

theorem unpack3_pack3 (xs : List Span) : ∃ tail, unpack3 (pack3 xs) = xs ++ tail :=
  ⟨_, unpackElements_packElements (by decide) xs⟩

theorem unpack5_pack5 (xs : List Ext) : ∃ tail, unpack5 (pack5 xs) = xs ++ tail :=
  ⟨_, unpackElements_packElements (by decide) xs⟩

/-- Packed streams that belong together decode to the words of their replay. -/
theorem decodeBody_pack {cfg : Config} (h5 : cfg.e5cap = none) (a : Byte) {c : BitVec 24} {spans : List Span}
    {exts : List Ext} {ws : List Word} (hspans : takeRuns c.toNat spans = some spans)
    (hexts : spans.count 7 ≤ exts.length) (hc : c.toNat ≤ cfg.wcap.val)
    (hreplay : replaySpans spans exts 0 0 0 = .ok ws) :
    ∃ exts', decodeBody cfg a c (pack3 spans ++ pack5 exts) = .ok a ws spans exts' := by
  obtain ⟨pad, h3⟩ := unpack3_pack3 spans
  obtain ⟨more, happ⟩ := unpack3_append (pack3 spans) (pack5 exts)
  obtain ⟨tail, h5'⟩ := unpack5_pack5 exts
  refine ⟨exts ++ tail, decodeBody_eq_ok.mpr ⟨?_, ?_⟩⟩
  · rw [happ, h3, List.append_assoc]
    exact takeRuns_append hspans _
  · rw [List.drop_left' (pack3_length spans), h5']
    refine decodeStreams_eq_ok.mpr ⟨⟨rfl, rfl, rfl⟩, by rw [h5]; rfl, ?_, hc, replaySpans_append_exts hreplay tail⟩
    rw [List.length_append]
    omega

theorem compress_take (ws : List Word) (a : Byte) :
    (compress ws a).take 4 = frameHeader a (BitVec.ofNat 24 ws.length) :=
  List.take_left' (frameHeader_length _ _)

theorem compress_drop (ws : List Word) (a : Byte) :
    (compress ws a).drop 4 = pack3 (transform ws).1 ++ pack5 (transform ws).2 :=
  List.drop_left' (frameHeader_length _ _)

theorem headerAlgo_compress (ws : List Word) (a : Byte) : headerAlgo ((compress ws a).take 4) = a := by
  rw [compress_take, headerAlgo_frameHeader]

/-- A sequence whose length fits the header has its length there (40_span_encoder.md R138). -/
theorem headerCount_compress {ws : List Word} (hlen : ws.length ≤ 16777215) (a : Byte) :
    (headerCount ((compress ws a).take 4)).toNat = ws.length := by
  rw [compress_take, headerCount_frameHeader, BitVec.toNat_ofNat]
  omega

theorem four_le_compress_length (ws : List Word) (a : Byte) : 4 ≤ (compress ws a).length := by
  rw [compress_length, frameLength, hdrBytes]
  omega

/-- 41_span_decoder.md R179: where the buffers are unbounded and the count check is off or passes, `decompress` undoes
`compress`. -/
theorem decodes_compress {cfg : Config} (hb : cfg.bcap = none) (h3 : cfg.e3cap = none) (h5 : cfg.e5cap = none)
    {ws : List Word} (hw : ws.length ≤ cfg.wcap.val) (a : Byte)
    (hcheck : cfg.countPrecheck = false ∨ ws.length ≤ (compress ws a).length - 4) :
    Decodes cfg (compress ws a) a ws := by
  have hcount := headerCount_compress (ws := ws) (by have := cfg.wcap.isLt; omega) a
  have hpass : HeaderPasses cfg (compress ws a) :=
    ⟨by rw [hb]; rfl, four_le_compress_length ws a, by rwa [hcount], by rw [h3]; rfl⟩
  obtain ⟨exts', hbody⟩ := decodeBody_pack h5 a (hcount ▸ takeRuns_transform ws) (transform_escapes_le ws)
    (hcount ▸ hw) (replaySpans_transform ws)
  refine ⟨(transform ws).1, exts', ?_⟩
  rw [decompress_of_headerPasses hpass, headerAlgo_compress, compress_drop]
  exact hbody

/-! The count check. -/

theorem decompress_unexpectedEnd {cfg : Config} {bs : List Byte} (hb : cfg.bcap = none) (hlen : 4 ≤ bs.length)
    (hp : cfg.countPrecheck = true) (hlt : bs.length - 4 < (headerCount (bs.take 4)).toNat) :
    decompress cfg bs = .stopped (.error .unexpectedEndOfData) := by
  have hb' : ¬ exceeds bs.length cfg.bcap = true := by simp [hb]
  rw [decompress_eq, if_neg hb', if_neg (Nat.not_lt.mpr hlen), if_pos ⟨hp, hlt⟩]

/-- A frame shorter than its count fails the check (R153). -/
theorem decompress_compress_short {ws : List Word} (hlen : ws.length ≤ 16777215) {a : Byte}
    (hlt : (compress ws a).length - 4 < ws.length) :
    decompress Config.unbounded (compress ws a) = .stopped (.error .unexpectedEndOfData) :=
  decompress_unexpectedEnd rfl (four_le_compress_length ws a) rfl (by rwa [headerCount_compress hlen])

/-- 40_span_encoder.md R137, R140: the bytes after the header of N words with P set bits in their deltas. -/
theorem compress_length_sub (ws : List Word) (a : Byte) :
    (compress ws a).length - 4 =
      packedLen 3 (ws.length + totalSetBits ws) + packedLen 5 (transform ws).2.length := by
  have hspans : (transform ws).1.length = ws.length + totalSetBits ws := by
    rw [transform_eq, flatMap_runSpans_length, deltasFrom_length, totalSetBits]
  rw [compress_length, frameLength, hspans, hdrBytes]
  omega

theorem length_le_of_totalSetBits {ws : List Word} (a : Byte) (h : 5 * ws.length ≤ 3 * totalSetBits ws) :
    ws.length ≤ (compress ws a).length - 4 := by
  rw [compress_length_sub, packedLen]
  omega

/-! The two smallest counterexamples. -/

theorem runSpans_zero : runSpans 0 = [0] := by
  rw [runSpans, distances, setPositions_zero]
  rfl

theorem runExts_zero : runExts 0 = [] := by
  rw [runExts, distances, setPositions_zero]
  rfl

theorem setPositions_one : setPositions 1 = [1] := by
  decide

theorem runSpans_one : runSpans 1 = [1, 0] := by
  rw [runSpans, distances, setPositions_one]
  rfl

theorem runExts_one : runExts 1 = [] := by
  rw [runExts, distances, setPositions_one]
  rfl

theorem transform_zero_zero : transform [0, 0] = ([0, 0], []) := by
  rw [transform_eq, show deltasFrom 0 [0, 0] = [0, 0] by decide]
  simp only [List.flatMap_cons, List.flatMap_nil, runSpans_zero, runExts_zero]
  rfl

theorem transform_one_one_one : transform [1, 1, 1] = ([1, 0, 0, 0], []) := by
  rw [transform_eq, show deltasFrom 0 [1, 1, 1] = [1, 0, 0] by decide]
  simp only [List.flatMap_cons, List.flatMap_nil, runSpans_zero, runExts_zero, runSpans_one, runExts_one]
  rfl

theorem compress_zero_zero (a : Byte) : compress [0, 0] a = [a, 0, 0, 2, 0] := by
  rw [compress, transform_zero_zero]
  exact congrArg (a :: ·) (by decide : be24 2 ++ (pack3 [0, 0] ++ pack5 []) = [0, 0, 2, 0])

theorem compress_one_one_one_length (a : Byte) : (compress [1, 1, 1] a).length = 6 := by
  rw [compress_length, transform_one_one_one]
  rfl

/-- Settles O33: the general round trip, the failing count check, and two frames shorter than their count. -/
theorem roundTripUnderTheCountCheck : Obligations.RoundTripUnderTheCountCheck := by
  refine ⟨fun ws a hlen => ⟨?_, fun hle => ?_, fun hlt => ?_, fun hbits => ?_⟩, fun a => ⟨?_, ?_, ?_⟩⟩
  · exact decodes_compress rfl rfl rfl hlen a (.inl rfl)
  · exact decodes_compress rfl rfl rfl hlen a (.inr hle)
  · exact decompress_compress_short hlen hlt
  · exact length_le_of_totalSetBits a hbits
  · exact compress_zero_zero a
  · exact decompress_compress_short (by decide) (by rw [compress_zero_zero]; exact Nat.one_lt_two)
  · exact decompress_compress_short (by decide) (by rw [compress_one_one_one_length]; exact Nat.lt_succ_self 2)

end Sys2Proof.Machine
end

section
/-! PROOF. The replay of `DECODE` runs as the replay on sequences (41_span_decoder.md R158 to R164). While spans and
extensions stand in their buffers and there is room for the words, each turn of the machine is one code of the sequence;
what is left of the state's part is a list of writes to `WBUF` and the cursors. -/

namespace Sys2Proof.Machine

/-! A sequence written cell by cell. -/

/-- Writes a sequence from cell `i` on. -/
def Buf.writeFrom {w : Nat} (b : Buf w) : Nat → List (BitVec w) → Buf w
  | _, [] => b
  | i, x :: xs => Buf.writeFrom (b.write i x) (i + 1) xs

theorem lookupCell_writeFrom {w : Nat} (b : Buf w) (i j : Nat) (xs : List (BitVec w)) :
    lookupCell (b.writeFrom i xs).cells j = (if i ≤ j then xs[j - i]? else none).or (lookupCell b.cells j) := by
  induction xs generalizing b i with
  | nil => simp [Buf.writeFrom]
  | cons x xs ih =>
    rw [Buf.writeFrom, ih, show (b.write i x).cells = insertCell i x b.cells from rfl, lookupCell_insertCell]
    obtain hlt | rfl | hgt := Nat.lt_trichotomy i j
    · have hsub : j - i = (j - (i + 1)) + 1 := by omega
      rw [if_pos (show i + 1 ≤ j from hlt), if_pos hlt.le, if_neg hlt.ne, hsub, List.getElem?_cons_succ]
    · simp
    · simp [show ¬ i + 1 ≤ j by omega, show ¬ i ≤ j by omega, show i ≠ j by omega]

/-- The words written from cell 0, and kept when the buffer is cut behind them. -/
theorem Buf.holds_truncate_writeFrom {w : Nat} (b : Buf w) (xs : List (BitVec w)) (k : Nat) :
    ((b.writeFrom 0 xs).truncate xs.length k).Holds xs := by
  intro i h
  simp [Buf.read_truncate, lookupCell_writeFrom, h]

/-- The first values of a stored sequence are kept when the buffer is cut behind them. -/
theorem Buf.holds_truncate_ofSeq {w : Nat} {xs ys : List (BitVec w)} (h : ys <+: xs) (k k' : Nat) :
    ((Buf.ofSeq k xs).truncate ys.length k').Holds ys := by
  intro i hi
  have hx : i < xs.length := hi.trans_le h.length_le
  have hcells : lookupCell (Buf.ofSeq k xs).cells i = some ys[i] := by
    rw [show (Buf.ofSeq k xs).cells = numberFrom 0 xs from rfl, lookupCell_numberFrom, if_pos (Nat.zero_le i),
      Nat.sub_zero, List.getElem?_eq_getElem hx, h.getElem hi]
  rw [Buf.read_truncate, if_pos hi, hcells]
  rfl

/-! The state between two turns. -/

/-- What the replay has before it: the spans `cs` at `sp` and the extensions `es` at `xp`, enough of them, and room for
the words. A value under construction without a bit has no position yet. -/
structure ReplayView (s : State) (cs : List Span) (es : List Ext) : Prop where
  running : s.replaying = true
  left : s.dec.sp + cs.length = s.dec.spanLength
  spans : ∀ (i : Nat) (h : i < cs.length), engineRead s.cfg .e3buf s.e3buf (s.dec.sp + i) = .ok cs[i]
  exts : ∀ (i : Nat) (h : i < es.length), engineRead s.cfg .e5buf s.e5buf (s.dec.xp + i) = .ok es[i]
  escapes : cs.count 7 ≤ es.length
  words : s.dec.wp + cs.count 0 ≤ s.cfg.wcap.val
  noBit : s.dec.fp = 0 → s.dec.bo = 0

/-- The state after the fetch of a code and of `k` extensions (R161, R164). -/
def State.fetched (s : State) (k : Nat) : State :=
  { s with dec := { s.dec with sp := s.dec.sp + 1, xp := s.dec.xp + k } }

/-- The state after a fetched terminator (R162). -/
def State.stored (s : State) : State :=
  { s with
    wbuf := s.wbuf.write s.dec.wp (s.dec.fp ^^^ s.dec.fpPrev)
    dec := { s.dec with
      sp := s.dec.sp + 1, wp := s.dec.wp + 1, fpPrev := s.dec.fp ^^^ s.dec.fpPrev, fp := 0, bo := 0 } }

/-- The state after a fetched code of distance `d` that consumed `k` extensions (R159, R163, R164). -/
def State.advanced (s : State) (k d : Nat) : State :=
  { s with
    dec := { s.dec with
      sp := s.dec.sp + 1, xp := s.dec.xp + k, bo := s.dec.bo + d, fp := setPosition s.dec.fp (s.dec.bo + d) } }

theorem advance_fetched_of_le {s : State} {k d : Nat} (h : s.dec.bo + d ≤ 32) :
    advance d (s.fetched k) = s.advanced k d :=
  advance_of_le h

/-- The state after the spans `cs` have given the words `ws`. -/
def State.replayed (s : State) (cs : List Span) (ws : List Word) : State :=
  { s with
    wbuf := s.wbuf.writeFrom s.dec.wp ws
    dec := { s.dec with
      sp := s.dec.sp + cs.length, xp := s.dec.xp + cs.count 7, wp := s.dec.wp + cs.count 0
      bo := 0, fp := 0, fpPrev := ws.getLastD s.dec.fpPrev } }

theorem State.replayed_nil {s : State} (hfp : s.dec.fp = 0) (hbo : s.dec.bo = 0) : s.replayed [] [] = s := by
  have hdec : { s.dec with bo := 0, fp := 0 } = s.dec := by
    rw [← hbo, show (0 : Word) = s.dec.fp from hfp.symm]
  show { s with dec := { s.dec with bo := 0, fp := 0 } } = s
  rw [hdec]

theorem State.stored_replayed (s : State) (cs : List Span) (ws : List Word) :
    s.stored.replayed cs ws = s.replayed (0 :: cs) ((s.dec.fp ^^^ s.dec.fpPrev) :: ws) := by
  simp only [State.replayed, State.stored, Buf.writeFrom, List.length_cons, List.count_cons_self,
    List.count_cons_of_ne (show (0 : Span) ≠ 7 by decide), List.getLastD_cons, Nat.add_assoc, Nat.add_comm 1]

theorem State.advanced_replayed (s : State) {c : Span} (h0 : c ≠ 0) {cs : List Span} {k : Nat}
    (hk : (c :: cs).count 7 = k + cs.count 7) (d : Nat) (ws : List Word) :
    (s.advanced k d).replayed cs ws = s.replayed (c :: cs) ws := by
  simp only [State.replayed, State.advanced, List.length_cons, List.count_cons_of_ne h0, hk, Nat.add_assoc,
    Nat.add_comm 1]

/-! The view after one turn. -/

theorem ReplayView.fetch {s : State} {c : Span} {cs : List Span} {es : List Ext} (h : ReplayView s (c :: cs) es) :
    replay (cs.length + 1) s = andThen (execSpanCode c (s.fetched 0)) (replay cs.length) := by
  have hleft := h.left
  rw [List.length_cons] at hleft
  exact replay_fetch_ok _ ⟨h.running, by omega⟩ (h.spans 0 (Nat.succ_pos _))

theorem ReplayView.stored {s : State} {cs : List Span} {es : List Ext} (h : ReplayView s (0 :: cs) es) :
    execSpanCode 0 (s.fetched 0) = .next s.stored ∧ ReplayView s.stored cs es := by
  have hwords := h.words
  rw [List.count_cons_self] at hwords
  refine ⟨execT_of_lt (s := s.fetched 0) ?_, h.running, ?_, fun i hi => ?_, h.exts, ?_, ?_, fun _ => rfl⟩
  · show s.dec.wp < s.cfg.wcap.val
    omega
  · have hleft := h.left
    rw [List.length_cons] at hleft
    show s.dec.sp + 1 + cs.length = s.dec.spanLength
    omega
  · have hspan := h.spans (i + 1) (Nat.succ_lt_succ hi)
    rwa [← Nat.add_assoc, Nat.add_right_comm] at hspan
  · have hesc := h.escapes
    rwa [List.count_cons_of_ne (by decide)] at hesc
  · show s.dec.wp + 1 + cs.count 0 ≤ s.cfg.wcap.val
    omega

theorem setPosition_ne_zero (fp : Word) {p : Nat} (h1 : 1 ≤ p) (h32 : p ≤ 32) : setPosition fp p ≠ 0 := by
  intro hzero
  have hbit := setPosition_getLsbD fp h1 h32 (p - 1)
  rw [hzero, Nat.sub_add_cancel h1] at hbit
  simp at hbit

theorem ReplayView.advanced {s : State} {c : Span} {cs : List Span} {used es : List Ext}
    (h : ReplayView s (c :: cs) (used ++ es)) (h0 : c ≠ 0) (hused : (c :: cs).count 7 = used.length + cs.count 7)
    {d : Nat} (h1 : 1 ≤ d) (h32 : s.dec.bo + d ≤ 32) : ReplayView (s.advanced used.length d) cs es := by
  refine ⟨h.running, ?_, fun i hi => ?_, fun i hi => ?_, ?_, ?_, fun hfp => ?_⟩
  · have hleft := h.left
    rw [List.length_cons] at hleft
    show s.dec.sp + 1 + cs.length = s.dec.spanLength
    omega
  · have hspan := h.spans (i + 1) (Nat.succ_lt_succ hi)
    rwa [← Nat.add_assoc, Nat.add_right_comm] at hspan
  · have hext := h.exts (used.length + i) (by rw [List.length_append]; omega)
    simp only [List.getElem_append_right (Nat.le_add_right _ _), Nat.add_sub_cancel_left, ← Nat.add_assoc] at hext
    exact hext
  · have hesc := h.escapes
    rw [hused, List.length_append] at hesc
    omega
  · have hwords := h.words
    rwa [List.count_cons_of_ne h0] at hwords
  · exact absurd hfp (setPosition_ne_zero _ (by omega) h32)

/-! The whole replay. -/

/-- A replay reports the answer of the replay on sequences: the words in `WBUF`, or the stop in which the command ends. -/
def ReplayReports (a : Byte) (n : BitVec 24) (s : State) (cs : List Span) (o : Host.Outcome State Fault Refusal) :
    Except Stop (List Word) → Prop
  | .ok ws => o = .next (s.replayed cs ws)
  | .error e => ∃ u, mapNext (endReplay a n) o = .next (stopDecode e u)

theorem endReplay_of_running {s : State} (hr : s.replaying = true) (a : Byte) (n : BitVec 24) :
    endReplay a n s = finishDecode a n s :=
  if_pos hr

theorem replay_stopDecode (n : Nat) (c : Stop) (s : State) :
    replay n (stopDecode c s) = .next (stopDecode c s) :=
  replay_of_ended n (by simp)

/-- A code that advances, within the word or beyond it. -/
theorem replayReports_advance (a : Byte) (n : BitVec 24) {s : State} {c : Span} {cs : List Span} {used es : List Ext}
    (h : ReplayView s (c :: cs) (used ++ es)) (h0 : c ≠ 0) (hused : (c :: cs).count 7 = used.length + cs.count 7)
    {d : Nat} (h1 : 1 ≤ d)
    (hrun : execSpanCode c (s.fetched 0) = .next (advance d (s.fetched used.length)))
    (ih : ReplayView (s.advanced used.length d) cs es →
      ReplayReports a n (s.advanced used.length d) cs (replay cs.length (s.advanced used.length d))
        (replaySpans cs es (s.dec.bo + d) (setPosition s.dec.fp (s.dec.bo + d)) s.dec.fpPrev)) :
    ReplayReports a n s (c :: cs) (replay (cs.length + 1) s)
      (advanceThen cs es s.dec.bo d s.dec.fp s.dec.fpPrev) := by
  rw [h.fetch, hrun]
  unfold advanceThen
  split
  · next hle =>
    have hnext := ih (h.advanced h0 hused h1 hle)
    rw [advance_fetched_of_le hle]
    generalize replaySpans cs es (s.dec.bo + d) (setPosition s.dec.fp (s.dec.bo + d)) s.dec.fpPrev = r at hnext
    cases r with
    | ok ws => exact hnext.trans (congrArg _ (s.advanced_replayed h0 hused d ws))
    | error e => exact hnext
  · next hgt =>
    rw [advance_of_lt (s := s.fetched used.length) (Nat.not_le.mp hgt)]
    exact ⟨_, congrArg (mapNext (endReplay a n)) (replay_stopDecode cs.length _ _)⟩

/-- 41_span_decoder.md R158: the machine's replay answers as the replay on sequences. -/
theorem replay_reports (a : Byte) (n : BitVec 24) {s : State} {cs : List Span} {es : List Ext}
    (h : ReplayView s cs es) :
    ReplayReports a n s cs (replay cs.length s) (replaySpans cs es s.dec.bo s.dec.fp s.dec.fpPrev) := by
  induction cs generalizing s es with
  | nil =>
    rw [replaySpans_nil]
    split
    · next hfp => exact congrArg _ (State.replayed_nil hfp (h.noBit hfp)).symm
    · next hfp =>
      refine ⟨s, congrArg Host.Outcome.next ?_⟩
      rw [endReplay_of_running h.running]
      exact if_pos hfp
  | cons c cs ih =>
    by_cases h0 : c = 0
    · subst h0
      obtain ⟨hrun, hview⟩ := h.stored
      have hnext := ih hview
      rw [replaySpans_terminator, List.length_cons, h.fetch, hrun]
      change ReplayReports a n s.stored cs _ (replaySpans cs es 0 0 (s.dec.fp ^^^ s.dec.fpPrev)) at hnext
      generalize replaySpans cs es 0 0 (s.dec.fp ^^^ s.dec.fpPrev) = r at hnext
      cases r with
      | ok ws => exact hnext.trans (congrArg _ (s.stored_replayed cs ws))
      | error e => exact hnext
    by_cases h7 : c = 7
    · subst h7
      have hesc := h.escapes
      rw [List.count_cons_self] at hesc
      cases es with
      | nil => simp at hesc
      | cons e es =>
        have hread : engineRead (s.fetched 0).cfg .e5buf (s.fetched 0).e5buf (s.fetched 0).dec.xp = .ok e :=
          h.exts 0 (Nat.succ_pos _)
        exact replayReports_advance a n (used := [e]) h h0 (by rw [List.count_cons_self, Nat.add_comm]; rfl)
          (Nat.le_add_right_of_le (by decide)) (execX_of_read hread) (fun hview => ih hview)
    · rw [replaySpans_literal h0 h7]
      have hpos : 1 ≤ c.toNat := Nat.pos_of_ne_zero fun hz => h0 (BitVec.eq_of_toNat_eq hz)
      exact replayReports_advance a n (used := []) h h0 (by rw [List.count_cons_of_ne h7]; exact (Nat.zero_add _).symm)
        hpos (execSpanCode_literal h0 h7 _) (fun hview => ih hview)

end Sys2Proof.Machine
end

section
/-! PROOF. `DECODE` reports the answer of the pure decoder (41_span_decoder.md R150 to R168): its scan takes the spans that
the pure decoder takes, its tests are made on the same numbers in the same order, and its replay is that of the streams. -/

namespace Sys2Proof.Machine

/-! The scan (R155). -/

theorem spanValue_eq_zero_iff : ∀ c : Span, spanValue c = 0 ↔ c = 0 := by
  decide

theorem spanValue_eq_esc_iff : ∀ c : Span, spanValue c = esc ↔ c = 7 := by
  decide

theorem lookAt_tc (r : DecRegs) (c : Span) : (lookAt r c).tc = if c = 0 then r.tc + 1 else r.tc := by
  simp only [lookAt, spanValue_eq_zero_iff]

/-- The registers after the spans `ys` have been looked at, up to the terminator that makes `count`. -/
def DecRegs.scanned (r : DecRegs) (count : Nat) (ys : List Span) : DecRegs :=
  { r with tc := count, sc := r.sc + ys.count 7, sp := r.sp + ys.length }

theorem lookAt_scanned (r : DecRegs) (count : Nat) (y : Span) (ys : List Span) :
    (lookAt r y).scanned count ys = r.scanned count (y :: ys) := by
  simp only [DecRegs.scanned, lookAt, spanValue_eq_esc_iff, List.length_cons]
  by_cases h7 : y = 7
  · simp only [h7, if_true, List.count_cons_self, Nat.add_assoc, Nat.add_comm 1]
  · simp only [if_neg h7, List.count_cons_of_ne h7, Nat.add_assoc, Nat.add_comm 1]

/-- One look leaves one terminator fewer to be seen, if it was one. -/
theorem lookAt_missing {r : DecRegs} {count k : Nat} (hr : r.tc + (k + 1) = count) (c : Span) :
    (lookAt r c).tc + (if c = 0 then k else k + 1) = count := by
  rw [lookAt_tc]
  split <;> omega

theorem scan_of_full {count : Nat} {r : DecRegs} (hr : r.tc = count) (xs : List Span) : scan count xs r = r := by
  cases xs with
  | nil => rfl
  | cons x xs => exact if_neg (by omega)

/-- Where the missing terminators are there, the scan looks at the spans that `takeRuns` takes. -/
theorem scan_of_takeRuns {count k : Nat} {xs ys : List Span} {r : DecRegs} (hr : r.tc + k = count)
    (h : takeRuns k xs = some ys) : scan count xs r = r.scanned count ys := by
  refine takeRuns_induction
    (P := fun k xs ys => ∀ r : DecRegs, r.tc + k = count → scan count xs r = r.scanned count ys) ?_ ?_ h r hr
  · intro xs r hr
    obtain rfl : r.tc = count := hr
    exact scan_of_full rfl xs
  · intro k x xs ys ih r hr
    rw [scan_cons, if_pos (by omega), ih _ (lookAt_missing hr x), lookAt_scanned]

/-- Where they are not, the scan ends short of the count (R156). -/
theorem scan_tc_lt {count k : Nat} {xs : List Span} {r : DecRegs} (hr : r.tc + k = count)
    (h : takeRuns k xs = none) : (scan count xs r).tc < count := by
  induction xs generalizing k r with
  | nil =>
    cases k with
    | zero => cases h
    | succ k => exact Nat.lt_of_lt_of_eq (Nat.lt_add_of_pos_right (Nat.succ_pos k)) hr
  | cons x xs ih =>
    cases k with
    | zero => cases h
    | succ k =>
      rw [takeRuns_cons, Option.map_eq_none_iff] at h
      rw [scan_cons, if_pos (by omega)]
      exact ih (lookAt_missing hr x) h

/-! What a report of `DECODE` is. -/

/-- The state in which `DECODE` has ended `OK` with the answer of the pure decoder (R166, R167), with the cursors of
R178. -/
structure Decoded (a : Byte) (n : BitVec 24) (ws : List Word) (spans : List Span) (exts : List Ext) (t : State) :
    Prop where
  status : t.status = .ok
  algo : t.algo = a
  count : t.count = n
  wlen : t.wlen = n
  wordCount : ws.length = n.toNat
  wbuf : t.wbuf.Holds ws
  e3len : t.e3len = spans.length
  e3buf : t.e3buf.Holds spans
  e5len : t.e5len = exts.length
  e5buf : t.e5buf.Holds exts
  regs : t.dec =
    { tc := n.toNat, sc := spans.count 7, sp := spans.length, unpackedSpans := t.dec.unpackedSpans
      spanLength := spans.length, available := exts.length, bo := 0, fp := 0, fpPrev := t.dec.fpPrev
      xp := spans.count 7, wp := n.toNat }
  escapes : spans.count 7 ≤ exts.length
  taken : spans.length ≤ t.dec.unpackedSpans

/-- The outcome of a part of `DECODE` is what the pure decoder answers: the sequence, or the stop. -/
def Reports (n : BitVec 24) (o : Host.Outcome State Fault Refusal) : DecodeResult → Prop
  | .ok a ws spans exts => ∃ t, o = .next t ∧ Decoded a n ws spans exts t
  | .stopped c => ∃ u, o = .next (stopDecode c u)

/-- A test that both sides make is passed on to the two branches. -/
theorem reports_ite {n : BitVec 24} {p : Prop} [Decidable p] {o o' : Host.Outcome State Fault Refusal}
    {r r' : DecodeResult} (h : Reports n o r) (h' : ¬ p → Reports n o' r') :
    Reports n (if p then o else o') (if p then r else r') := by
  split
  · exact h
  · next hp => exact h' hp

/-! The replay of the streams (R158, R165 to R167). -/

theorem engineRead_ofSeq {w : Nat} {cfg : Config} {b : BufId} {xs : List (BitVec w)}
    (hcap : exceeds xs.length (capacity cfg b) = false) (k : Nat) {i : Nat} (hi : i < xs.length) :
    engineRead cfg b (Buf.ofSeq k xs) i = .ok xs[i] := by
  refine engineRead_ok.mpr ⟨?_, Buf.holds_ofSeq k xs i hi⟩
  rw [cellExists, exceeds_mono hi hcap]
  rfl

/-- The state after the scan of `body` has taken `spans` (R154 to R156). -/
def State.scanned (s : State) (n : BitVec 24) (body : List Byte) (spans : List Span) : State :=
  { s with
    e3buf := Buf.ofSeq s.freeCount (unpack3 body)
    pack := (unpackElements 3 body).2
    dec := { DecRegs.start with
      tc := n.toNat, sc := spans.count 7, sp := spans.length, unpackedSpans := unpackCount 3 body.length
      spanLength := spans.length } }

/-- The state after the extensions of `tail` have been unpacked (R157). -/
def State.unpacked (s : State) (tail : List Byte) : State :=
  { s with
    e5buf := Buf.ofSeq s.freeCount (unpack5 tail)
    pack := (unpackElements 5 tail).2
    dec := { s.dec with available := unpackCount 5 tail.length } }

theorem replayView_start {s : State} {n : BitVec 24} {body tail : List Byte} {spans : List Span}
    (h3 : exceeds (unpackCount 3 body.length) s.cfg.e3cap = false)
    (hspans : takeRuns n.toNat (unpack3 body) = some spans)
    (h5 : exceeds (unpackCount 5 tail.length) s.cfg.e5cap = false)
    (hesc : spans.count 7 ≤ (unpack5 tail).length) (hn : n.toNat ≤ s.cfg.wcap.val) :
    ReplayView ((s.scanned n body spans).unpacked tail).startReplay spans (unpack5 tail) where
  running := rfl
  left := Nat.zero_add _
  spans i hi := by
    have hpre := takeRuns_isPrefix hspans
    have hread := engineRead_ofSeq (cfg := s.cfg) (b := .e3buf) (xs := unpack3 body) (by rwa [unpack3_length])
      s.freeCount (hi.trans_le hpre.length_le)
    rw [hpre.getElem hi]
    exact (congrArg (engineRead s.cfg .e3buf (Buf.ofSeq s.freeCount (unpack3 body))) (Nat.zero_add i)).trans hread
  exts i hi := by
    have hread := engineRead_ofSeq (cfg := s.cfg) (b := .e5buf) (xs := unpack5 tail) (by rwa [unpack5_length])
      s.freeCount hi
    exact (congrArg (engineRead s.cfg .e5buf (Buf.ofSeq s.freeCount (unpack5 tail))) (Nat.zero_add i)).trans hread
  escapes := hesc
  words := by
    rw [takeRuns_count hspans]
    exact (Nat.zero_add _).trans_le hn
  noBit _ := rfl

/-- The end of a replay that has given `ws` (R165 to R167). -/
theorem decoded_finishDecode {s : State} {n : BitVec 24} {body tail : List Byte} {spans : List Span} {ws : List Word}
    (hspans : takeRuns n.toNat (unpack3 body) = some spans) (hesc : spans.count 7 ≤ (unpack5 tail).length)
    (hws : ws.length = spans.count 0) (a : Byte) :
    Decoded a n ws spans (unpack5 tail)
      (finishDecode a n (((s.scanned n body spans).unpacked tail).startReplay.replayed spans ws)) := by
  have hcount := takeRuns_count hspans
  have hlen : ws.length = n.toNat := hws.trans hcount
  obtain ⟨hfp, -⟩ | ⟨-, hfinish⟩ :=
    finishDecode_cases a n (((s.scanned n body spans).unpacked tail).startReplay.replayed spans ws)
  · exact absurd rfl hfp
  · rw [hfinish]
    exact
      { status := rfl
        algo := rfl
        count := rfl
        wlen := rfl
        wordCount := hlen
        wbuf := hlen ▸ Buf.holds_truncate_writeFrom s.wbuf ws s.freeCount
        e3len := rfl
        e3buf := Buf.holds_truncate_ofSeq (takeRuns_isPrefix hspans) s.freeCount s.freeCount
        e5len := (unpack5_length tail).symm
        e5buf := Buf.holds_ofSeq s.freeCount (unpack5 tail)
        regs := by
          simp only [State.replayed, State.startReplay, State.unpacked, State.scanned, endCommand_dec, Nat.zero_add,
            hcount, unpack5_length]
        escapes := hesc
        taken := by
          have hle := (takeRuns_isPrefix hspans).length_le
          rwa [unpack3_length] at hle }

theorem runReplay_reports {s : State} {n : BitVec 24} {body tail : List Byte} {spans : List Span}
    (h3 : exceeds (unpackCount 3 body.length) s.cfg.e3cap = false)
    (hspans : takeRuns n.toNat (unpack3 body) = some spans)
    (h5 : exceeds (unpackCount 5 tail.length) s.cfg.e5cap = false)
    (hesc : spans.count 7 ≤ (unpack5 tail).length) (hn : n.toNat ≤ s.cfg.wcap.val) (a : Byte) :
    Reports n (runReplay a n ((s.scanned n body spans).unpacked tail))
      (replayAnswer a spans (unpack5 tail) (replaySpans spans (unpack5 tail) 0 0 0)) := by
  have hreplay := replay_reports a n (replayView_start h3 hspans h5 hesc hn)
  rw [runReplay_eq]
  change ReplayReports a n _ spans _ (replaySpans spans (unpack5 tail) 0 0 0) at hreplay
  cases hr : replaySpans spans (unpack5 tail) 0 0 0 with
  | ok ws =>
    rw [hr] at hreplay
    exact ⟨_, congrArg (mapNext (endReplay a n)) hreplay,
      decoded_finishDecode hspans hesc (replaySpans_length hr) a⟩
  | error e =>
    rw [hr] at hreplay
    exact hreplay

/-! The tests (60_exceptions.md R241), from the last to the first. -/

theorem decodeExtensions_reports {s : State} {n : BitVec 24} {body : List Byte} {spans : List Span}
    (h3 : exceeds (unpackCount 3 body.length) s.cfg.e3cap = false)
    (hspans : takeRuns n.toNat (unpack3 body) = some spans) (a : Byte) (tail : List Byte) :
    Reports n (decodeExtensions a n tail (s.scanned n body spans)) (decodeStreams s.cfg a n spans (unpack5 tail)) := by
  unfold decodeExtensions decodeStreams
  rw [unpack5_length]
  refine reports_ite ⟨_, rfl⟩ fun h5 => reports_ite ⟨_, rfl⟩ fun hesc => reports_ite ⟨_, rfl⟩ fun hn => ?_
  have hwords : ¬ s.cfg.wcap.val < n.toNat := mt decide_eq_true hn
  exact runReplay_reports h3 hspans (eq_false_of_ne_true h5) (by rw [unpack5_length]; exact Nat.not_lt.mp hesc)
    (Nat.not_lt.mp hwords) a

theorem decodeSpans_of_taken {n : BitVec 24} {body : List Byte} {spans : List Span}
    (hspans : takeRuns n.toNat (unpack3 body) = some spans) (a : Byte) (s : State) :
    decodeSpans a n body s =
      decodeExtensions a n (body.drop (pack3Size spans.length)) (s.scanned n body spans) := by
  have hscan : scan n.toNat (unpack3 body) DecRegs.start =
      { DecRegs.start with tc := n.toNat, sc := spans.count 7, sp := spans.length } := by
    rw [scan_of_takeRuns (Nat.zero_add _) hspans]
    simp only [DecRegs.scanned, DecRegs.start, Nat.zero_add]
  unfold decodeSpans
  dsimp only
  rw [hscan]
  exact if_neg (Nat.lt_irrefl n.toNat)

theorem decodeSpans_of_short {n : BitVec 24} {body : List Byte} (hspans : takeRuns n.toNat (unpack3 body) = none)
    (a : Byte) (s : State) : ∃ u, decodeSpans a n body s = .next (stopDecode (.error .unexpectedEndOfData) u) :=
  ⟨_, if_pos (scan_tc_lt (r := DecRegs.start) (Nat.zero_add _) hspans)⟩

theorem decodeSpans_reports {s : State} {body : List Byte}
    (h3 : exceeds (unpackCount 3 body.length) s.cfg.e3cap = false) (a : Byte) (n : BitVec 24) :
    Reports n (decodeSpans a n body s) (decodeBody s.cfg a n body) := by
  unfold decodeBody
  split
  · next hspans => exact decodeSpans_of_short hspans a s
  · next spans hspans =>
    rw [decodeSpans_of_taken hspans]
    exact decodeExtensions_reports h3 hspans a _

/-! The bytes in `BBUF`, and the whole command. -/

/-- A part of a held sequence is read as it is. -/
theorem Buf.Holds.readFrom_drop {w : Nat} {b : Buf w} {xs : List (BitVec w)} (h : b.Holds xs) (i : Nat) :
    b.readFrom i (xs.length - i) = .ok (xs.drop i) := by
  rw [← List.length_drop]
  refine Buf.readFrom_eq_ok b i (xs.drop i) fun j hj => ?_
  rw [List.getElem_drop]
  exact h (i + j) (by rw [List.length_drop] at hj; omega)

theorem Buf.Holds.readFrom_take {w : Nat} {b : Buf w} {xs : List (BitVec w)} (h : b.Holds xs) {n : Nat}
    (hn : n ≤ xs.length) : b.readFrom 0 n = .ok (xs.take n) := by
  have hread := Buf.readFrom_eq_ok b 0 (xs.take n) fun j hj => by
    rw [List.getElem_take, Nat.zero_add]
    exact h j (by rw [List.length_take] at hj; omega)
  rwa [List.length_take_of_le hn] at hread

/-- 41_span_decoder.md R150: `DECODE` reports what the pure decoder answers for the bytes in `BBUF`. -/
theorem execDecode_reports {s : State} {bs : List Byte} (hbs : s.bbuf.Holds bs) (hlen : bs.length = s.blen) :
    Reports (headerCount (bs.take 4)) (execDecode s) (decompress s.cfg bs) := by
  rw [decompress_eq, hlen]
  refine reports_ite ⟨_, rfl⟩ fun _ => reports_ite ⟨_, rfl⟩ fun h4 => ?_
  have hheader : s.bbuf.readFrom 0 hdrBytes = .ok (bs.take 4) := hbs.readFrom_take (by omega)
  have hbody : s.bbuf.readFrom hdrBytes (s.blen - hdrBytes) = .ok (bs.drop 4) := hlen ▸ hbs.readFrom_drop 4
  rw [hheader]
  refine reports_ite ⟨_, rfl⟩ fun _ => reports_ite ⟨_, rfl⟩ fun h3 => ?_
  rw [hbody]
  exact decodeSpans_reports (by rw [List.length_drop, hlen]; exact eq_false_of_ne_true h3) _ _

/-! The statements. -/

/-- Settles O25: the outputs of a report of `Ok(a, ws)`, and the frame. -/
theorem decodeReportsTheSequence : Obligations.DecodeReportsTheSequence := by
  intro s bs a ws spans exts hbs hlen hok
  have hreport := execDecode_reports hbs hlen
  rw [hok] at hreport
  obtain ⟨t, ht, hd⟩ := hreport
  exact ⟨t, ht, hd.status, hd.algo, hd.count, hd.wlen.trans hd.count.symm, by rw [hd.wlen, hd.wordCount], hd.wbuf,
    hd.e3len, hd.e3buf, hd.e5len, hd.e5buf, execDecode_frame ht⟩

/-- Settles O26: every stop of the machine is `stopDecode`. -/
theorem decodeReportsTheStop : Obligations.DecodeReportsTheStop := by
  intro s bs c hbs hlen hstop
  have hreport := execDecode_reports hbs hlen
  rw [hstop] at hreport
  obtain ⟨u, hu⟩ := hreport
  obtain ⟨-, hout⟩ := decodeFrame_iff.mp (execDecode_frame hu)
  exact ⟨_, hu, stoppedDecode_stopDecode c hout⟩

/-- Settles O27: the length is tested before the first read. -/
theorem shortInputIsReportedUnread : Obligations.ShortInputIsReportedUnread := by
  intro s hb hlt
  have hrun : execDecode s = .next (stopDecode (.error .inputTooShort) s) := by
    rw [execDecode, if_neg (ne_true_of_eq_false hb)]
    exact if_pos hlt
  exact ⟨_, hrun, rfl, rfl, stoppedDecode_stopDecode _ rfl⟩

theorem stopDecode_status_ne_ok (c : Stop) (s : State) : (stopDecode c s).status ≠ .ok := by
  rw [stopDecode_status]
  cases c with
  | error e => cases e <;> simp [Stop.status]
  | unspecifiedBitOffset | refusedCapacity => simp [Stop.status]

/-- A `DECODE` that ends `OK` has read its input. -/
theorem execDecode_ok_holds {s t : State} (h : execDecode s = .next t) (hok : t.status = .ok) :
    ∃ bs, s.bbuf.Holds bs ∧ bs.length = s.blen := by
  obtain rfl | rfl | ⟨header, -, h4, hheader, hrest⟩ := execDecode_cases h
  · exact absurd hok (stopDecode_status_ne_ok _ _)
  · exact absurd hok (stopDecode_status_ne_ok _ _)
  obtain rfl | rfl | ⟨body, -, hbody, -⟩ := decodeHeader_cases hrest
  · exact absurd hok (stopDecode_status_ne_ok _ _)
  · exact absurd hok (stopDecode_status_ne_ok _ _)
  obtain ⟨hhlen, hhread⟩ := Buf.readFrom_ok hheader
  obtain ⟨hblen, hbread⟩ := Buf.readFrom_ok hbody
  refine ⟨header ++ body, fun i hi => ?_, by rw [List.length_append]; omega⟩
  rw [List.length_append] at hi
  obtain hlt | hge := Nat.lt_or_ge i header.length
  · rw [List.getElem_append_left hlt, ← hhread i hlt, Nat.zero_add]
  · rw [List.getElem_append_right hge, ← hbread (i - header.length) (by omega), hhlen,
      Nat.add_sub_of_le (hhlen ▸ hge)]

/-- Settles O29: a run that ends `OK` is reported by the pure decoder, and the report has the cursors. -/
theorem decodeEndsWithItsCursorsAtTheEnd : Obligations.DecodeEndsWithItsCursorsAtTheEnd := by
  intro s t h hok
  obtain ⟨bs, hbs, hlen⟩ := execDecode_ok_holds h hok
  have hreport := execDecode_reports hbs hlen
  cases hr : decompress s.cfg bs with
  | stopped c =>
    rw [hr] at hreport
    obtain ⟨u, hu⟩ := hreport
    obtain rfl := Host.Outcome.next.inj (h.symm.trans hu)
    exact absurd hok (stopDecode_status_ne_ok c u)
  | ok a ws spans exts =>
    rw [hr] at hreport
    obtain ⟨u, hu, hd⟩ := hreport
    obtain rfl := Host.Outcome.next.inj (h.symm.trans hu)
    have htaken := hd.taken
    rw [hd.e3len, hd.e5len, hd.count]
    rw [hd.regs] at htaken ⊢
    exact ⟨rfl, rfl, rfl, rfl, rfl, rfl, rfl, rfl, hd.escapes, htaken⟩

end Sys2Proof.Machine
end

section
/-! PROOF. `ENCODE` and then `DECODE` on the machine (41_span_decoder.md R179). -/

namespace Sys2Proof.Machine

/-- Settles O34: the frame that `ENCODE` writes is decoded by the pure decoder, whose answer `DECODE` reports. -/
theorem encodeThenDecodeRestoresTheWords : Obligations.EncodeThenDecodeRestoresTheWords := by
  intro s ws hws hlen hcap hb h3 h5 hcheck
  obtain ⟨t, ht, -, hbytes, hblen, -⟩ :=
    encodeWritesTheFrame s ws hws hlen hcap (by rw [h3]; rfl) (by rw [h5]; rfl) (by rw [hb]; rfl)
  have hcfg : t.cfg = s.cfg := exec_cfg ht
  obtain ⟨spans, exts, hdec⟩ := decodes_compress hb h3 h5 hcap s.algo hcheck
  obtain ⟨u, hu, hok, halgo, hcount, hwlen, -, hwords, -⟩ :=
    decodeReportsTheSequence t (compress ws s.algo) s.algo ws spans exts hbytes hblen.symm (hcfg ▸ hdec)
  have hcount' : u.count = s.wlen := by
    rw [hcount, compress_take, headerCount_frameHeader, hlen, BitVec.ofNat_toNat, BitVec.setWidth_eq]
  exact ⟨t, u, ht, hu, hok, halgo, hwlen.trans hcount', hcount', hwords⟩

end Sys2Proof.Machine
end

section
/-! PROOF. The size formulas (42_pack3.md R190, 43_pack5.md R210, R211): eight elements of `w` bits are `w` bytes, so a size
is read off the strides and the tail. -/

namespace Sys2Proof.Machine

theorem packedLen_eq_stride_tail (w n : Nat) : packedLen w n = w * (n / 8) + packedLen w (n % 8) := by
  have hbits : w * n = 8 * (w * (n / 8)) + w * (n % 8) := by
    rw [Nat.mul_left_comm, ← Nat.mul_add, Nat.div_add_mod]
  unfold packedLen
  omega

theorem unpackCount_mul_add {w : Nat} (hw : 0 < w) (k m : Nat) :
    unpackCount w (w * k + m) = 8 * k + unpackCount w m := by
  unfold unpackCount
  rw [Nat.mul_add, Nat.mul_left_comm, Nat.mul_add_div hw]

/-- The zeros that unpacking adds depend on the tail alone. -/
theorem unpackCount_packedLen_sub {w : Nat} (hw : 0 < w) (n : Nat) :
    unpackCount w (packedLen w n) - n = unpackCount w (packedLen w (n % 8)) - n % 8 := by
  rw [packedLen_eq_stride_tail, unpackCount_mul_add hw]
  omega

/-- The table of R190. -/
theorem packedLen_three_tail : ∀ r < 8, packedLen 3 r = [0, 1, 1, 2, 2, 2, 3, 3].getD r 0 := by
  decide

/-- The table of R211. -/
theorem packedLen_five_tail : ∀ r < 8, packedLen 5 r = [0, 1, 2, 2, 3, 4, 4, 5].getD r 0 := by
  decide

theorem pack5Size_sub_packedLen (n : Nat) : pack5Size n - packedLen 5 n = 5 - (5 * (n % 8) + 7) / 8 := by
  rw [packedLen5_eq, pack5Size]
  omega

/-- Settles O47: the strides are full, the tail is looked up, and the reserve exceeds the size by what the tail leaves. -/
theorem sizeFormulas : Obligations.SizeFormulas := by
  intro n
  have htail : n % 8 < 8 := Nat.mod_lt _ (by decide)
  refine ⟨rfl, rfl, ?_, ?_, rfl, packedLen5_le_pack5Size n, ?_⟩
  · rw [← packedLen_three_tail _ htail]
    exact packedLen_eq_stride_tail 3 n
  · rw [← packedLen_five_tail _ htail]
    exact packedLen_eq_stride_tail 5 n
  · rw [← stride_slack _ htail]
    exact pack5Size_sub_packedLen n

end Sys2Proof.Machine
end

section
/-! PROOF. What the unpackers return, and how they invert the packers (42_pack3.md R193, R194, 43_pack5.md R214, R216). Both
directions compare bit strings: packing fills the last byte with zeros, which unpacking returns as elements where an element
fits, and unpacking drops the top bits of the last byte where none fits, which packing returns as zeros. -/

namespace Sys2Proof.Machine

/-- Settles O41: the bit string of the elements is that of the bytes. -/
theorem unpackedElementsAreTheBitsOfTheString : Obligations.UnpackedElementsAreTheBitsOfTheString := by
  intro w bs _
  refine ⟨unpackElements_length w bs, fun j t hj ht => ?_⟩
  rw [unpackElements_length] at hj
  have hp : w * j + t < w * unpackCount w bs.length := by
    rw [Nat.add_comm]
    exact Nat.add_mul_lt_mul_of_lt_of_lt ht hj
  have hbit : bitAt (unpackElements w bs).1 (w * j + t) = bitAt bs (w * j + t) := bitAt_unpackElements bs hp
  rwa [bitAt_mul_add _ _ ht] at hbit

/-! Packing what was unpacked. -/

/-- The bits that the whole elements of `m` bytes leave over (R194, R216). -/
theorem mul_unpackCount_add_mod (w m : Nat) : w * unpackCount w m + 8 * m % w = 8 * m :=
  Nat.div_add_mod (8 * m) w

/-- The bits left over are fewer than an element's, so the whole elements of `m` bytes fill `m` bytes again. -/
theorem packedLen_unpackCount_eq {w : Nat} (hw : 0 < w) (hw8 : w ≤ 8) (m : Nat) :
    packedLen w (unpackCount w m) = m := by
  have hsplit := mul_unpackCount_add_mod w m
  have hrest : 8 * m % w < w := Nat.mod_lt _ hw
  unfold packedLen
  omega

theorem bitAt_singleton {w : Nat} (x : BitVec w) (p : Nat) : bitAt [x] p = x.getLsbD p := by
  obtain hp | hp := Nat.lt_or_ge p w
  · simpa using bitAt_mul_add [x] 0 hp
  · rw [bitAt_of_le (by simpa using hp), BitVec.getLsbD_of_ge x p hp]

/-- The byte with its top `k` bits cleared. -/
theorem getLsbD_and_lowMask (b : Byte) (k t : Nat) :
    (b &&& (0xFF#8 >>> k)).getLsbD t = (b.getLsbD t && decide (t + k < 8)) := by
  rw [BitVec.getLsbD_and, BitVec.getLsbD_ushiftRight, Nat.add_comm t k]
  exact congrArg (b.getLsbD t && ·) (BitVec.getLsbD_allOnes (v := 8))

/-- Clearing the top `k` bits of the last byte clears the last `k` bits of the string. -/
theorem bitAt_concat_and_lowMask (bs : List Byte) (b : Byte) {k : Nat} (hk : k ≤ 8) (p : Nat) :
    bitAt (bs ++ [b &&& (0xFF#8 >>> k)]) p = (bitAt (bs ++ [b]) p && decide (p + k < 8 * (bs.length + 1))) := by
  simp only [bitAt_append, bitAt_singleton, getLsbD_and_lowMask]
  split
  · next hp => simp [show p + k < 8 * (bs.length + 1) by omega]
  · next hp => simp only [show p - 8 * bs.length + k < 8 ↔ p + k < 8 * (bs.length + 1) by omega]

theorem packElements_unpackElements_concat {w : Nat} (hw : 0 < w) (hw8 : w ≤ 8) (bs : List Byte) (b : Byte) :
    packElements (unpackElements w (bs ++ [b])).1 = bs ++ [b &&& (0xFF#8 >>> (8 * (bs.length + 1) % w))] := by
  have hlen : (bs ++ [b]).length = bs.length + 1 := List.length_append
  have hsplit := mul_unpackCount_add_mod w (bs.length + 1)
  have hrest : 8 * (bs.length + 1) % w < w := Nat.mod_lt _ hw
  refine packElements_eq_of_bitAt hw ?_ fun p _ => ?_
  · rw [unpackElements_length, packedLen_unpackCount_eq hw hw8, hlen, List.length_append, List.length_singleton]
  rw [bitAt_concat_and_lowMask bs b (by omega)]
  by_cases hp : p < w * unpackCount w (bs.length + 1)
  · have hkept : p + 8 * (bs.length + 1) % w < 8 * (bs.length + 1) := by omega
    rw [bitAt_unpackElements _ (hlen ▸ hp), decide_eq_true hkept, Bool.and_true]
  · have hcleared : ¬ p + 8 * (bs.length + 1) % w < 8 * (bs.length + 1) := by omega
    rw [bitAt_of_le (by rw [unpackElements_length, hlen]; omega), decide_eq_false hcleared, Bool.and_false]

/-- 42_pack3.md R194, 43_pack5.md R216: packing returns the bytes with the bits that belong to no element cleared. -/
theorem packElements_unpackElements {w : Nat} (hw : 0 < w) (hw8 : w ≤ 8) (bs : List Byte) :
    packElements (unpackElements w bs).1 =
      bs.dropLast ++ bs.getLast?.toList.map (fun b => b &&& (0xFF#8 >>> (8 * bs.length % w))) := by
  obtain rfl | ⟨init, last, rfl⟩ := List.eq_nil_or_concat' bs
  · simp [unpackElements, unpackCount, takeElements, packElements, packedLen, stringBytes]
  · simpa using packElements_unpackElements_concat hw hw8 init last

/-! The tables of the 3-bit elements. -/

/-- The table of R194: the zeros after a tail of `r` elements. -/
theorem unpackCount_three_tail : ∀ r < 8, unpackCount 3 (packedLen 3 r) - r = [0, 1, 0, 2, 1, 0, 2, 1].getD r 0 := by
  decide

/-- R194: the ignored bits of a last stride of `r` bytes. -/
theorem ignoredBits_three : ∀ r < 3, 8 * r % 3 = [0, 2, 1].getD r 0 := by
  decide

theorem ignoredBits_three_mod (m : Nat) : 8 * m % 3 = [0, 2, 1].getD (m % 3) 0 := by
  rw [← ignoredBits_three _ (Nat.mod_lt m (by decide))]
  exact (Nat.mul_mod_mod 8 m 3).symm

/-- Settles O45: both directions for elements of any width up to a byte, with the tables of width 3. -/
theorem unpack3InvertsPack3UpToATail : Obligations.Unpack3InvertsPack3UpToATail := by
  refine ⟨fun xs => ⟨unpackElements_packElements (by decide) xs, ?_⟩, fun bs => ?_⟩
  · rw [← unpackCount_three_tail _ (Nat.mod_lt _ (by decide))]
    exact unpackCount_packedLen_sub (by decide) xs.length
  · rw [← ignoredBits_three_mod]
    exact packElements_unpackElements (by decide) (by decide) bs

end Sys2Proof.Machine
end

section
/-! PROOF. The commands `PACK3` and `UNPACK3` (42_pack3.md R196, R197), test by test. -/

namespace Sys2Proof.Machine

/-! How a packer ends, `PACK3` and `PACK5` alike. -/

theorem refusePack_frame (s : State) : PackFrame s (refusePack s) := rfl

theorem storePacked_frame (bytes : List Byte) (regs : PackRegs) (size : Nat) (s : State) :
    PackFrame s (storePacked bytes regs size s) := rfl

/-! `PACK3`. -/

theorem execPack3_refused {s : State}
    (h : exceeds s.e3len s.cfg.e3cap = true ∨ exceeds (pack3Size s.e3len) s.cfg.bcap = true) :
    execPack3 s = .next (refusePack s) :=
  if_pos (Bool.or_eq_true_iff.mpr h)

theorem execPack3_of_holds {s : State} {xs : List Span} (hxs : s.e3buf.Holds xs) (hlen : xs.length = s.e3len)
    (h3 : exceeds s.e3len s.cfg.e3cap = false) (hb : exceeds (pack3Size s.e3len) s.cfg.bcap = false) :
    execPack3 s = .next (storePacked (pack3 xs) (packString xs).1 (pack3Size s.e3len) s) := by
  have hread : s.e3buf.readFrom 0 s.e3len = .ok xs := hlen ▸ hxs.readFrom
  simp [execPack3, h3, hb, hread]

/-- Settles O36: either test refuses, and with both passed the packed bytes are stored. -/
theorem pack3PacksTheSpanBuffer : Obligations.Pack3PacksTheSpanBuffer := by
  refine ⟨rfl, fun s h3 => ?tooManySpans, fun s xs hxs hlen h3 => ⟨fun hb => ?tooManyBytes, fun hb => ?packed⟩⟩
  case tooManySpans =>
    exact ⟨_, execPack3_refused (.inl h3), refusePack_status s, refusePack_frame s⟩
  case tooManyBytes =>
    exact ⟨_, execPack3_refused (.inr hb), refusePack_status s, refusePack_frame s⟩
  case packed =>
    have hsize : (pack3 xs).length = pack3Size s.e3len := by rw [pack3_length, hlen]
    exact ⟨_, execPack3_of_holds hxs hlen h3 hb, storePacked_status .., Buf.holds_ofSeq _ _, hsize,
      (storePacked_blen ..).trans hsize, storePacked_cap .., storePacked_frame ..⟩

/-! `UNPACK3`. -/

/-- The state in which `UNPACK3` of the bytes `bs` ends `OK` (R197). -/
def storeUnpacked3 (bs : List Byte) (s : State) : State :=
  endCommand .ok
    { s with
      e3buf := Buf.ofSeq s.freeCount (unpack3 bs)
      e3len := unpackCount 3 s.blen
      pack := (unpackElements 3 bs).2 }

theorem refuseUnpack3_frame (s : State) : Unpack3Frame s (refuseUnpack3 s) := rfl

theorem storeUnpacked3_frame (bs : List Byte) (s : State) : Unpack3Frame s (storeUnpacked3 bs s) := rfl

theorem execUnpack3_refused {s : State}
    (h : exceeds s.blen s.cfg.bcap = true ∨ exceeds (unpackCount 3 s.blen) s.cfg.e3cap = true) :
    execUnpack3 s = .next (refuseUnpack3 s) :=
  if_pos (Bool.or_eq_true_iff.mpr h)

theorem execUnpack3_of_holds {s : State} {bs : List Byte} (hbs : s.bbuf.Holds bs) (hlen : bs.length = s.blen)
    (hb : exceeds s.blen s.cfg.bcap = false) (h3 : exceeds (unpackCount 3 s.blen) s.cfg.e3cap = false) :
    execUnpack3 s = .next (storeUnpacked3 bs s) := by
  have hread : s.bbuf.readFrom 0 s.blen = .ok bs := hlen ▸ hbs.readFrom
  simp [execUnpack3, hb, h3, hread, storeUnpacked3]

/-- Settles O37: either test refuses, and with both passed every whole element is stored. -/
theorem unpack3UnpacksTheByteBuffer : Obligations.Unpack3UnpacksTheByteBuffer := by
  refine ⟨rfl, fun s hb => ?tooManyBytes, fun s bs hbs hlen hb => ⟨fun h3 => ?tooManySpans, fun h3 => ?unpacked⟩⟩
  case tooManyBytes =>
    exact ⟨_, execUnpack3_refused (.inl hb), refuseUnpack3_status s, refuseUnpack3_frame s⟩
  case tooManySpans =>
    exact ⟨_, execUnpack3_refused (.inr h3), refuseUnpack3_status s, refuseUnpack3_frame s⟩
  case unpacked =>
    have hcount : (unpack3 bs).length = 8 * s.blen / 3 := by rw [unpack3_length, hlen, unpackCount]
    exact ⟨_, execUnpack3_of_holds hbs hlen hb h3, endCommand_status .., Buf.holds_ofSeq _ _, hcount, rfl,
      storeUnpacked3_frame bs s⟩

end Sys2Proof.Machine
end

section
/-! PROOF. The 5-bit packer and unpacker (43_pack5.md R216 to R218). The inversion is that of elements of any width up to a
byte, so only the tables of width 5 are new; the commands are settled test by test, as `PACK3` and `UNPACK3` are. -/

namespace Sys2Proof.Machine

/-! The tables of the 5-bit elements. -/

/-- The table of R216: the zeros after a tail of `r` elements. -/
theorem unpackCount_five_tail : ∀ r < 8, unpackCount 5 (packedLen 5 r) - r = [0, 0, 1, 0, 0, 1, 0, 1].getD r 0 := by
  decide

/-- R214: the ignored bits of a last stride of `r` bytes. -/
theorem ignoredBits_five : ∀ r < 5, 8 * r % 5 = [0, 3, 1, 4, 2].getD r 0 := by
  decide

theorem ignoredBits_five_mod (m : Nat) : 8 * m % 5 = [0, 3, 1, 4, 2].getD (m % 5) 0 := by
  rw [← ignoredBits_five _ (Nat.mod_lt m (by decide))]
  exact (Nat.mul_mod_mod 8 m 5).symm

/-- Settles O46: both directions for elements of any width up to a byte, with the tables of width 5. -/
theorem unpack5InvertsPack5UpToATail : Obligations.Unpack5InvertsPack5UpToATail := by
  refine ⟨fun xs => ⟨unpackElements_packElements (by decide) xs, ?zeros⟩, fun bs => ?cleared⟩
  case zeros =>
    rw [← unpackCount_five_tail _ (Nat.mod_lt _ (by decide))]
    exact unpackCount_packedLen_sub (by decide) xs.length
  case cleared =>
    rw [← ignoredBits_five_mod]
    exact packElements_unpackElements (by decide) (by decide) bs

/-! `PACK5`: unlike `PACK3`, the reserve tested against `BCAP` and left in `CAP` is not the number of bytes written. -/

theorem execPack5_refused {s : State}
    (h : exceeds s.e5len s.cfg.e5cap = true ∨ exceeds (pack5Size s.e5len) s.cfg.bcap = true) :
    execPack5 s = .next (refusePack s) :=
  if_pos (Bool.or_eq_true_iff.mpr h)

theorem execPack5_of_holds {s : State} {xs : List Ext} (hxs : s.e5buf.Holds xs) (hlen : xs.length = s.e5len)
    (h5 : exceeds s.e5len s.cfg.e5cap = false) (hb : exceeds (pack5Size s.e5len) s.cfg.bcap = false) :
    execPack5 s = .next (storePacked (pack5 xs) (packString xs).1 (pack5Size s.e5len) s) := by
  have hread : s.e5buf.readFrom 0 s.e5len = .ok xs := hlen ▸ hxs.readFrom
  simp [execPack5, h5, hb, hread]

/-- Settles O38: either test refuses, and with both passed the packed bytes are stored and the reserve reported. -/
theorem pack5PacksTheExtensionBuffer : Obligations.Pack5PacksTheExtensionBuffer := by
  refine ⟨rfl, fun s h5 => ?tooManyExts, fun s xs hxs hlen h5 => ⟨fun hb => ?reserveTooLarge, fun hb => ?packed⟩⟩
  case tooManyExts =>
    exact ⟨_, execPack5_refused (.inl h5), refusePack_status s, refusePack_frame s⟩
  case reserveTooLarge =>
    exact ⟨_, execPack5_refused (.inr hb), refusePack_status s, refusePack_frame s⟩
  case packed =>
    have hsize : (pack5 xs).length = packedLen 5 s.e5len := by rw [pack5_length, hlen]
    exact ⟨_, execPack5_of_holds hxs hlen h5 hb, storePacked_status .., Buf.holds_ofSeq _ _, hsize,
      (storePacked_blen ..).trans hsize, storePacked_cap .., storePacked_frame ..⟩

/-! `UNPACK5`. -/

/-- The state in which `UNPACK5` of the bytes `bs` ends `OK` (R218). -/
def storeUnpacked5 (bs : List Byte) (s : State) : State :=
  endCommand .ok
    { s with
      e5buf := Buf.ofSeq s.freeCount (unpack5 bs)
      e5len := unpackCount 5 s.blen
      pack := (unpackElements 5 bs).2 }

theorem refuseUnpack5_frame (s : State) : Unpack5Frame s (refuseUnpack5 s) := rfl

theorem storeUnpacked5_frame (bs : List Byte) (s : State) : Unpack5Frame s (storeUnpacked5 bs s) := rfl

theorem execUnpack5_refused {s : State}
    (h : exceeds s.blen s.cfg.bcap = true ∨ exceeds (unpackCount 5 s.blen) s.cfg.e5cap = true) :
    execUnpack5 s = .next (refuseUnpack5 s) :=
  if_pos (Bool.or_eq_true_iff.mpr h)

theorem execUnpack5_of_holds {s : State} {bs : List Byte} (hbs : s.bbuf.Holds bs) (hlen : bs.length = s.blen)
    (hb : exceeds s.blen s.cfg.bcap = false) (h5 : exceeds (unpackCount 5 s.blen) s.cfg.e5cap = false) :
    execUnpack5 s = .next (storeUnpacked5 bs s) := by
  have hread : s.bbuf.readFrom 0 s.blen = .ok bs := hlen ▸ hbs.readFrom
  simp [execUnpack5, hb, h5, hread, storeUnpacked5]

/-- Settles O39: either test refuses, and with both passed every whole element is stored. -/
theorem unpack5UnpacksTheByteBuffer : Obligations.Unpack5UnpacksTheByteBuffer := by
  refine ⟨rfl, fun s hb => ?tooManyBytes, fun s bs hbs hlen hb => ⟨fun h5 => ?tooManyExts, fun h5 => ?unpacked⟩⟩
  case tooManyBytes =>
    exact ⟨_, execUnpack5_refused (.inl hb), refuseUnpack5_status s, refuseUnpack5_frame s⟩
  case tooManyExts =>
    exact ⟨_, execUnpack5_refused (.inr h5), refuseUnpack5_status s, refuseUnpack5_frame s⟩
  case unpacked =>
    have hcount : (unpack5 bs).length = 8 * s.blen / 5 := by rw [unpack5_length, hlen, unpackCount]
    exact ⟨_, execUnpack5_of_holds hbs hlen hb h5, endCommand_status .., Buf.holds_ofSeq _ _, hcount, rfl,
      storeUnpacked5_frame bs s⟩

end Sys2Proof.Machine
end

section
/-! PROOF. How `ENCODE`, the packers and the unpackers end (60_exceptions.md R239), and the block between commands (R255). -/

namespace Sys2Proof.Machine

theorem fetch_of_input_nil {s : State} (hi : s.input = []) : fetch s = .idle := by
  rw [fetch, hi]

/-- Settles O3: no command runs, and the fetch finds no action to carry out. -/
theorem blockWithoutHostActionStaysAsItIs : Obligations.BlockWithoutHostActionStaysAsItIs := by
  intro s hr hi
  rw [step, hr, fetch_of_input_nil hi]
  rfl

theorem encodeFinish_status (e : Encoder) (s : State) :
    (encodeFinish e s).status = .ok ∨ (encodeFinish e s).status = .refusedCapacity := by
  obtain hf | ⟨-, -, -, hf⟩ := encodeFinish_cases e s <;> rw [hf]
  · exact .inr rfl
  · exact .inl rfl

/-- Settles O49: each of the five commands refuses, or writes its outputs and ends `OK`. -/
theorem codersEndOkOrRefused : Obligations.CodersEndOkOrRefused := by
  intro i s t hi h
  cases i
  case encode =>
    obtain ⟨-, rfl⟩ | ⟨ws, -, rfl⟩ := execEncode_cases h
    · exact .inr rfl
    · exact encodeFinish_status _ s
  case pack3 => obtain rfl | ⟨xs, -, -, rfl⟩ := execPack3_cases h; exacts [.inr rfl, .inl rfl]
  case unpack3 => obtain rfl | ⟨bs, -, -, rfl⟩ := execUnpack3_cases h; exacts [.inr rfl, .inl rfl]
  case pack5 => obtain rfl | ⟨xs, -, -, rfl⟩ := execPack5_cases h; exacts [.inr rfl, .inl rfl]
  case unpack5 => obtain rfl | ⟨bs, -, -, rfl⟩ := execUnpack5_cases h; exacts [.inr rfl, .inl rfl]
  case t | d1 | d2 | d3 | d4 | d5 | d6 | x | decode | reserved0 | reserved7 => exact absurd hi (by decide)

end Sys2Proof.Machine
end

section
/-! PROOF. Two errors of `DECODE`. `IncompleteStride` (60_exceptions.md R236) is never reported: the spans replayed are those
up to the last terminator the scan counted, and a terminator leaves no value under construction. `MissingExtension` (R233)
is reported by one test, before the replay, with the numbers that the test compared. -/

namespace Sys2Proof.Machine

/-! The command up to its spans. -/

/-- All that `DECODE` can do before it looks at a span: stop at one of the tests of R25 and R151 to R154, or have read every
byte after the header. -/
theorem execDecode_spans_cases {s t : State} (h : execDecode s = .next t) :
    t.status = .refusedCapacity ∨ t.status = .inputTooShort ∨ t.status = .unexpectedEndOfData ∨
    (∃ (a : Byte) (n : BitVec 24) (body : List Byte), body.length = s.blen - 4 ∧
      exceeds (unpackCount 3 body.length) s.cfg.e3cap = false ∧ decodeSpans a n body s = .next t) := by
  obtain rfl | rfl | ⟨header, -, -, -, hheader⟩ := execDecode_cases h
  · exact .inl rfl
  · exact .inr (.inl rfl)
  obtain rfl | rfl | ⟨body, h3, hbody, hspans⟩ := decodeHeader_cases hheader
  · exact .inr (.inr (.inl rfl))
  · exact .inl rfl
  · obtain ⟨hlen, -⟩ := Buf.readFrom_ok hbody
    exact .inr (.inr (.inr ⟨_, _, body, hlen, by rwa [hlen], hspans⟩))

/-! `IncompleteStride`. -/

theorem advanceThen_ne_incompleteStride {cs : List Span} {es : List Ext} {bo d : Nat} {fp prev : Word}
    (h : ∀ (bo : Nat) (fp : Word), replaySpans cs es bo fp prev ≠ .error (.error .incompleteStride)) :
    advanceThen cs es bo d fp prev ≠ .error (.error .incompleteStride) := by
  unfold advanceThen
  split
  · exact h _ _
  · simp

theorem replaySpans_terminator_ne_incompleteStride {cs : List Span} {es : List Ext} {fp prev : Word} (bo : Nat)
    (h : replaySpans cs es 0 0 (fp ^^^ prev) ≠ .error (.error .incompleteStride)) :
    replaySpans (0 :: cs) es bo fp prev ≠ .error (.error .incompleteStride) := by
  rw [replaySpans_terminator]
  cases hr : replaySpans cs es 0 0 (fp ^^^ prev) with
  | ok ws => simp [Except.map]
  | error e => rwa [hr] at h

/-- The spans the scan takes end in a terminator, so their replay ends with no value under construction. Where it takes
none (count 0), the value the replay starts with must be 0. -/
theorem replaySpans_ne_incompleteStride_of_takeRuns {c : Nat} {xs ys : List Span} (h : takeRuns c xs = some ys) :
    ∀ (es : List Ext) (bo : Nat) (fp prev : Word), (c = 0 → fp = 0) →
      replaySpans ys es bo fp prev ≠ .error (.error .incompleteStride) := by
  refine takeRuns_induction (P := fun c _ ys => ∀ (es : List Ext) (bo : Nat) (fp prev : Word), (c = 0 → fp = 0) →
    replaySpans ys es bo fp prev ≠ .error (.error .incompleteStride)) ?stop ?take h
  case stop =>
    intro xs es bo fp prev hfp
    simp [replaySpans_nil, hfp rfl]
  case take =>
    intro c x xs ys ih es bo fp prev _
    by_cases h0 : x = 0
    · subst h0
      exact replaySpans_terminator_ne_incompleteStride bo (ih es 0 0 (fp ^^^ prev) fun _ => rfl)
    rw [if_neg h0] at ih
    have hadvance : ∀ (rest : List Ext) (d : Nat),
        advanceThen ys rest bo d fp prev ≠ .error (.error .incompleteStride) :=
      fun rest d => advanceThen_ne_incompleteStride fun bo' fp' => ih rest bo' fp' prev (by simp)
    by_cases h7 : x = 7
    · subst h7
      cases es with
      | nil => simp [replaySpans]
      | cons e rest => exact hadvance rest _
    · rw [replaySpans_literal h0 h7]
      exact hadvance es _

theorem decodeStreams_ne_incompleteStride {spans : List Span} {exts : List Ext}
    (h : replaySpans spans exts 0 0 0 ≠ .error (.error .incompleteStride)) (cfg : Config) (a : Byte) (n : BitVec 24) :
    decodeStreams cfg a n spans exts ≠ .stopped (.error .incompleteStride) := by
  unfold decodeStreams
  split
  · simp
  split
  · simp
  split
  · simp
  cases hr : replaySpans spans exts 0 0 0 with
  | ok ws => simp [replayAnswer]
  | error e =>
    rw [hr] at h
    exact fun hstop => h (congrArg Except.error (DecodeResult.stopped.inj hstop))

theorem decodeBody_ne_incompleteStride (cfg : Config) (a : Byte) (n : BitVec 24) (body : List Byte) :
    decodeBody cfg a n body ≠ .stopped (.error .incompleteStride) := by
  unfold decodeBody
  split
  · simp
  · next spans hspans =>
    have hreplay := replaySpans_ne_incompleteStride_of_takeRuns hspans
      (unpack5 (body.drop (pack3Size spans.length))) 0 0 0 fun _ => rfl
    exact decodeStreams_ne_incompleteStride hreplay cfg a n

theorem Stop.eq_of_status_incompleteStride {c : Stop} (h : c.status = .incompleteStride) :
    c = .error .incompleteStride := by
  cases c with
  | error e =>
    cases e with
    | incompleteStride => rfl
    | inputTooShort | unexpectedEndOfData | missingExtension => cases h
  | unspecifiedBitOffset | refusedCapacity => cases h

theorem status_ne_incompleteStride_of_reports {n : BitVec 24} {t : State} {r : DecodeResult}
    (h : Reports n (.next t) r) (hr : r ≠ .stopped (.error .incompleteStride)) : t.status ≠ .incompleteStride := by
  cases r with
  | ok a ws spans exts =>
    obtain ⟨u, hu, hd⟩ := h
    obtain rfl := Host.Outcome.next.inj hu
    simp [hd.status]
  | stopped c =>
    obtain ⟨u, hu⟩ := h
    obtain rfl := Host.Outcome.next.inj hu
    exact fun hc => hr (congrArg DecodeResult.stopped (Stop.eq_of_status_incompleteStride hc))

/-- Settles O28: the pure decoder never stops so, and `DECODE` reports what the pure decoder answers. -/
theorem incompleteStrideIsNeverReported : Obligations.IncompleteStrideIsNeverReported := by
  intro s t h
  obtain ht | ht | ht | ⟨a, n, body, -, h3, hspans⟩ := execDecode_spans_cases h
  · simp [ht]
  · simp [ht]
  · simp [ht]
  · have hreport := decodeSpans_reports h3 a n
    rw [hspans] at hreport
    exact status_ne_incompleteStride_of_reports hreport (decodeBody_ne_incompleteStride s.cfg a n body)

/-! `MissingExtension`. -/

theorem finishDecode_status_cases (a : Byte) (c : BitVec 24) (s : State) :
    (finishDecode a c s).status = .ok ∨ (finishDecode a c s).status = .incompleteStride := by
  obtain ⟨-, hf⟩ | ⟨-, hf⟩ := finishDecode_cases a c s <;> rw [hf]
  · exact .inr rfl
  · exact .inl rfl

/-- The escapes were counted before the replay, which finds no extension missing (R157, R164). -/
theorem runReplay_status_ne_missingExtension {a : Byte} {c : BitVec 24} {s t : State}
    (h : runReplay a c s = .next t) : t.status ≠ .missingExtension := by
  obtain ⟨u, hu, ⟨-, rfl⟩ | ⟨hr, rfl⟩⟩ := runReplay_cases h
  · obtain hok | hstride := finishDecode_status_cases a c u
    · simp [hok]
    · simp [hstride]
  · have hend : RunsOrBeyondWord t := replay_keeps_runsOrBeyondWord _ hu (.inl rfl)
    have hstop : t.status = .unspecifiedBitOffset := hend.resolve_left (by simp [hr])
    simp [hstop]

/-- What a `DECODE` that stops for want of extensions leaves, where `n` bytes follow the header (R157, R233). -/
structure MissesExtensions (n : Nat) (t : State) : Prop where
  fewer : t.errActual < t.errExpected
  expected : t.errExpected = t.dec.sc
  actual : t.errActual = unpackCount 5 (n - pack3Size t.dec.spanLength)

theorem decodeExtensions_missing {a : Byte} {c : BitVec 24} {body : List Byte} {s t : State}
    (h : decodeExtensions a c (body.drop (pack3Size s.dec.spanLength)) s = .next t)
    (ht : t.status = .missingExtension) : MissesExtensions body.length t := by
  obtain rfl | ⟨hlt, rfl⟩ | ⟨-, -, -, hrun⟩ := decodeExtensions_cases h
  · cases ht
  · exact ⟨hlt, rfl, congrArg (unpackCount 5) List.length_drop⟩
  · exact absurd ht (runReplay_status_ne_missingExtension hrun)

theorem decodeSpans_missing {a : Byte} {c : BitVec 24} {body : List Byte} {s t : State}
    (h : decodeSpans a c body s = .next t) (ht : t.status = .missingExtension) :
    MissesExtensions body.length t := by
  obtain ⟨regs, u, -, rfl | hext⟩ := decodeSpans_cases h
  · cases ht
  · exact decodeExtensions_missing hext ht

/-- Settles O30: of the bytes of the frame, 4 are the header, and the operands are the two numbers of R157's test. -/
theorem missingExtensionOperandsAreOrdered : Obligations.MissingExtensionOperandsAreOrdered := by
  intro s t h ht
  obtain ht' | ht' | ht' | ⟨a, n, body, hlen, -, hspans⟩ := execDecode_spans_cases h
  · simp [ht] at ht'
  · simp [ht] at ht'
  · simp [ht] at ht'
  · obtain ⟨hfewer, hexpected, hactual⟩ := decodeSpans_missing hspans ht
    rw [hlen, Nat.sub_sub] at hactual
    exact ⟨hfewer, hexpected, hactual⟩

end Sys2Proof.Machine
end

section
/-! PROOF. A reset between commands completes (70_reset_and_hazards.md R271): `step_reset` says which state the host's
reset action leads to, and the laws of `resetBlock` say what of the state before it stays (logs 2, 3). -/

namespace Sys2Proof.Machine

/-- Settles O2: the next state is `resetBlock` of the state without the action. -/
theorem resetActionCompletes : Obligations.ResetActionCompletes := by
  intro s rest hr hi
  have hnext : step s = .next (resetBlock { s with input := rest }) := step_reset hr hi
  exact ⟨_, hnext, resetBlock_cfg _, resetBlock_input _, resetBlock_replaying _⟩

end Sys2Proof.Machine
end
